-- ==== Sys2Proof/Word.lean ====
section
/-!
DEFINITION. Word types of the CHIP-8 core (00_scope.md R4, R5): every quantity the spec treats as bits is an
unsigned bit vector of the width the spec gives it; a register or key number is an index below 16.
-/

namespace Sys2Proof

/-- A byte: a memory cell, a V register, a timer, the immediate nn, the side input rnd (R4 `REG_W`, `TIMER_W`). -/
abbrev Byte := BitVec 8

/-- A 16-bit word: an opcode, PC, I, a stack entry (R4 `INSN_W`, `PC_W`, `I_W`, `STACK_W`). -/
abbrev Word := BitVec 16

/-- A four-bit slice of an opcode (GLOSSARY "Nibble"). -/
abbrev Nibble := BitVec 4

/-- The 12-bit immediate nnn (R61). -/
abbrev Imm12 := BitVec 12

/-- The number of a V register, 0 to 15; also a key number and a stack slot (R4 `NREG`, `NKEY`, `STACK_DEPTH`). -/
abbrev Reg := Fin 16

/-- The flag register's number: VF is another spelling of V[0xF] (R5, R12). -/
abbrev regF : Reg := 15

/-- The high byte of a word: the byte at the lower address (R42). -/
abbrev Word.hiByte (w : Word) : Byte := w.extractLsb' 8 8

/-- The low byte of a word: the byte at the higher address (R42). -/
abbrev Word.loByte (w : Word) : Byte := w.extractLsb' 0 8

end Sys2Proof
end

