-- ==== Sys2Proof/Config.lean ====
section
/-!
DEFINITION. The parameters of the architecture with the values this hardware takes (00_scope.md R4), and the one
free value, the random byte of a Step (42_alu.md R111).

The two compatibility flags have one specified value each and no other arm is modelled: SHIFT_SOURCE_VY = true is
the meaning of 8xy6 and 8xyE (`Machine.execShr`, `Machine.execShl`), LOADSTORE_INC_I = false that of Fx55 and Fx65
(`Machine.execLdMemVx`, `Machine.execLdVxMem`); 92_eei_decisions.md D23.
-/

namespace Sys2Proof.Config

/-- `MEM_SIZE`: bytes of memory, addresses 0x000 to 0xFFF. -/
@[simp] abbrev memSize : Nat := 4096

/-- `PROG_START`: where a program is loaded, and the reset value of PC. -/
@[simp] abbrev progStart : Word := 0x200#16

/-- `FB_H`: rows of the framebuffer. -/
@[simp] abbrev fbHeight : Nat := 32

/-- `FB_W`: columns of the framebuffer. -/
@[simp] abbrev fbWidth : Nat := 64

/-- `FONT_BASE`: address of the font table. -/
@[simp] abbrev fontBase : Nat := 0x000

/-- `FONT_STRIDE`: bytes of one font sprite. -/
@[simp] abbrev fontStride : Nat := 5

/-- `FONT_COUNT`: sprites of the font table. -/
@[simp] abbrev fontCount : Nat := 16

/-- `STACK_DEPTH`: entries of the call stack. -/
@[simp] abbrev stackDepth : Nat := 16

/-- What a byte of memory that nothing has written since PowerOn reads as (R30, R45). -/
@[simp] abbrev unlistedByte : Byte := 0x00#8

/-- FREE VALUE. The byte the environment supplies with the `k`-th Step that no scripted operation supplies a byte
for: "any value 0..255, chosen afresh by the environment for each Step, under no law a proof may use" (R111,
93_implementation_defined.md U1). It has no body, so nothing can be proved of its value (log entry 1). -/
opaque randomByte : Nat → Byte

end Sys2Proof.Config
end

