-- ==== Sys2Proof/Machine/State.lean ====
section
/-!
DEFINITION. The state of the machine as plain data: everything 10_state.md gives the core (R10 to R21), and beside it,
in the one field `env`, the model's own record of the environment's side of the interface (log entries 1 and 2).
-/

namespace Sys2Proof.Machine

/-- MEM (R10) as the cells that do not read as `Config.unlistedByte`, in canonical form (`Memory.wf`): addresses
strictly rising and below 4096, no entry equal to 0x00. -/
abbrev Memory := List Host.Cell

/-- FB (R20): `FB[row][col]`, 32 rows counted from the top, 64 columns counted from the left. -/
abbrev Framebuffer := Vector (Vector Bool 64) 32

/-- What the environment may do to the block besides Step (00_scope.md R3). -/
inductive DriverOp where
  /-- `PowerOn` (R180). -/
  | powerOn
  /-- `Load(bytes)` (R181). -/
  | load (bytes : List Byte)
  /-- `LoadFont` (R184). -/
  | loadFont
  /-- `Init` (R182). -/
  | init
  /-- `TickTimers` (R161). -/
  | tickTimers
  /-- `SetKey(k, b)` (R164). -/
  | setKey (k : Reg) (down : Bool)
  /-- `Observe` (R163, R165). -/
  | observe
  deriving DecidableEq, Repr

/-- The eight atomic operations of 00_scope.md R3. -/
inductive Operation where
  /-- `Step(rnd)` (R64), with the byte the environment supplies. -/
  | step (rnd : Byte)
  /-- Any of the other seven. -/
  | driver (op : DriverOp)
  deriving DecidableEq, Repr

/-- THE MODEL'S OWN STATE, not the hardware's (R22): the environment's side of the interface. -/
structure Env where
  /-- The side input of the Step being performed (R64, R111); every executing Step writes it before anything can
  read it. -/
  rnd : Byte
  /-- How many free random bytes have been drawn (log entry 1). -/
  draws : Nat
  /-- The operations the environment performs next, the first one first; when the list is empty the next operation
  is a Step with a free random byte (log entry 2). -/
  script : List Operation
  deriving DecidableEq, Repr

/-- The machine state (10_state.md section 1). -/
structure State where
  /-- MEM (R10). -/
  mem : Memory
  /-- V[0] to V[15]; V[15] is VF (R11, R12). -/
  v : Vector Byte 16
  /-- I, the index register, a full 16-bit register (R13). -/
  i : Word
  /-- PC (R14). -/
  pc : Word
  /-- STACK[0] to STACK[15] (R15). -/
  stack : Vector Word 16
  /-- SP, the number of entries in use, 0 to 16 (R16); a value above 16 is outside the spec and has no representation
  (R32, 93_implementation_defined.md U9, log entry 3). -/
  sp : Fin 17
  /-- DT, the delay timer (R17). -/
  dt : Byte
  /-- ST, the sound timer (R18). -/
  st : Byte
  /-- KEY[0] to KEY[15], true for pressed (R19). -/
  key : Vector Bool 16
  /-- FB (R20). -/
  fb : Framebuffer
  /-- WAIT: an Fx0A is suspended (R21). -/
  wait : Bool
  /-- WAITX: the x field of the suspended Fx0A (R21). -/
  waitx : Reg
  /-- KPREV[0] to KPREV[15]: the keys at the last Step that looked at them while waiting (R21). -/
  kprev : Vector Bool 16
  /-- The environment's side (log entries 1 and 2); no field of the hardware. -/
  env : Env
  deriving DecidableEq, Repr

/-- The four error kinds a Step can return (60_exceptions.md R150). An error leaves the state as it was before the
Step (R155): the outcome `fault` carries no state, and `perform` gives the unchanged one back. All four are SAFE: the
hardware returns the same error (log entry 4). -/
inductive Fault where
  /-- Code 1 (R151). Raised by the decode of a word that matches no pattern and by SYS; carries the opcode. Safe. -/
  | unimplementedInstruction (opcode : Word)
  /-- Code 2 (R152). Raised by 2nnn with SP = 16. Safe. -/
  | stackOverflow
  /-- Code 3 (R153). Raised by 00EE with SP = 0. Safe. -/
  | stackUnderflow
  /-- Code 4 (R154). Raised by the fetch, Dxyn, Fx33, Fx55 and Fx65 when the range they touch passes 0xFFF; carries no
  address. Safe. -/
  | memoryOutOfBounds
  deriving DecidableEq, Repr

/-- Why the model gives no outcome. -/
inductive Refusal where
  /-- An instruction without a meaning; raised by no arm of `exec`, since all 35 instructions have one. Safe. -/
  | notModelled (mnemonic : String)
  deriving DecidableEq, Repr

/-- The outcome of one Step or one instruction in this model. -/
abbrev Result := Host.Outcome State Fault Refusal

/-- The environment's side at reset: nothing scripted, nothing drawn. DESIGN CHOICE (log entries 1 and 2): the byte
`rnd` is dead until the first Step writes it. -/
def Env.reset : Env := { rnd := 0#8, draws := 0, script := [] }

/-- The state after PowerOn: everything zero but PC = 0x200 (R30, R180). -/
def State.reset : State where
  mem := []
  v := Vector.replicate 16 0#8
  i := 0#16
  pc := Config.progStart
  stack := Vector.replicate 16 0#16
  sp := 0
  dt := 0#8
  st := 0#8
  key := Vector.replicate 16 false
  fb := Vector.replicate 32 (Vector.replicate 64 false)
  wait := false
  waitx := 0
  kprev := Vector.replicate 16 false
  env := Env.reset

end Sys2Proof.Machine
end

