-- ==== Sys2Proof/Machine/Flags.lean ====
section
/-!
DEFINITION. The flag computations of the six instructions that write VF as a flag (10_state.md R12). A flag is the
byte 1 or 0.
-/

namespace Sys2Proof.Machine

/-- A flag value as the byte VF receives. -/
def flagByte (c : Bool) : Byte := if c then 1#8 else 0#8

/-- 8xy4: the unbounded sum of two bytes exceeds 255 (R106). -/
def carryFlag (a b : Byte) : Byte := flagByte (decide (a.toNat + b.toNat > 255))

/-- 8xy5 and 8xy7: the minuend is strictly greater, unsigned (R107, R109). -/
def greaterFlag (a b : Byte) : Byte := flagByte (decide (a.toNat > b.toNat))

/-- 8xy6: bit 0 (R108). -/
def lowBitFlag (b : Byte) : Byte := flagByte (b.getLsbD 0)

/-- 8xyE: bit 7 as 0 or 1, never 0x80 (R110). -/
def highBitFlag (b : Byte) : Byte := flagByte (b.getLsbD 7)

/-- Dxyn: some pixel went from 1 to 0 (R131). -/
def erasedFlag (erased : Bool) : Byte := flagByte erased

end Sys2Proof.Machine
end

