-- ==== Sys2Proof/Machine/Ops.lean ====
section
/-!
DEFINITION. The named operations over memory, registers, stack, framebuffer and PC that every meaning is written with,
and the raising of an error (20_memory.md R40 to R54, 30_encoding.md R69, 60_exceptions.md R155 to R157).
-/

namespace Sys2Proof.Machine

/-! ## Memory -/

/-- The byte at address `a`: the listed one, or 0x00 where nothing is listed (R45). -/
def Memory.read (m : Memory) (a : Nat) : Byte :=
  match m with
  | [] => Config.unlistedByte
  | (b, v) :: rest => if a = b then v else Memory.read rest a

/-- `MEM[a] <- v` (R41), keeping the canonical form: the value an unlisted address reads as is not listed. -/
def Memory.write (m : Memory) (a : Nat) (v : Byte) : Memory :=
  match m with
  | [] => if v = Config.unlistedByte then [] else [(a, v)]
  | (b, w) :: rest =>
    if a < b then (if v = Config.unlistedByte then (b, w) :: rest else (a, v) :: (b, w) :: rest)
    else if a = b then (if v = Config.unlistedByte then rest else (a, v) :: rest)
    else (b, w) :: Memory.write rest a v

/-- The `n` bytes at `a`, `a + 1`, ..., in ascending order (R44). -/
def Memory.readRange (m : Memory) (a n : Nat) : List Byte :=
  match n with
  | 0 => []
  | k + 1 => Memory.read m a :: Memory.readRange m (a + 1) k

/-- Write bytes at `a`, `a + 1`, ..., in ascending order (R44). -/
def Memory.writeRange (m : Memory) (a : Nat) (bytes : List Byte) : Memory :=
  match bytes with
  | [] => m
  | b :: rest => Memory.writeRange (Memory.write m a b) (a + 1) rest

/-- The entries stand at strictly rising addresses from `lo` on, below 4096, and none is 0x00. -/
def Memory.risingFrom (lo : Nat) (m : Memory) : Bool :=
  match m with
  | [] => true
  | (a, v) :: rest =>
    decide (lo ≤ a) && decide (a < Config.memSize) && v != Config.unlistedByte && Memory.risingFrom (a + 1) rest

/-- The canonical form: equal memories are equal lists. -/
def Memory.wf (m : Memory) : Bool := Memory.risingFrom 0 m

/-- The bound check of R48 on the whole range, in unbounded arithmetic: an empty range has no address out of bounds. -/
def inBounds (a n : Nat) : Bool := n == 0 || decide (a + n ≤ Config.memSize)

/-- The byte at address `a` of the state's memory. -/
def State.byteAt (s : State) (a : Nat) : Byte := Memory.read s.mem a

/-- The bytes of a range, or none where the range passes 0xFFF (R41, R48). -/
def State.loadBytes (s : State) (a n : Nat) : Option (List Byte) :=
  if inBounds a n then some (Memory.readRange s.mem a n) else none

/-- The state with bytes stored from `a` on, or none, with nothing stored, where the range passes 0xFFF (R41, R48). -/
def State.storeBytes (s : State) (a : Nat) (bytes : List Byte) : Option State :=
  if inBounds a bytes.length then some { s with mem := Memory.writeRange s.mem a bytes } else none

/-! ## Registers, one setter per piece of state -/

/-- V[x] (R11). -/
def State.readV (s : State) (x : Reg) : Byte := s.v[x]

/-- `V[x] <- b` (R11). -/
def State.writeV (s : State) (x : Reg) (b : Byte) : State := { s with v := s.v.set x b }

/-- `VF <- b` as a flag: VF is V[0xF] (R12). -/
def State.writeFlag (s : State) (b : Byte) : State := s.writeV regF b

/-- `V[0], V[1], ... <- bytes`, ascending from register 0; the registers past the list keep their value (R125). -/
def State.writeRegs (s : State) (bytes : List Byte) : State :=
  { s with v := Vector.ofFn fun k => bytes.getD k.val s.v[k] }

/-- `V[0], ..., V[x]`, the x + 1 registers of Fx55 (R63, R124). -/
def State.regsUpTo (s : State) (x : Reg) : List Byte := s.v.toList.take (x.val + 1)

/-- `I <- w` (R13). -/
def State.setI (s : State) (w : Word) : State := { s with i := w }

/-- `PC <- w` (R14). -/
def State.setPc (s : State) (w : Word) : State := { s with pc := w }

/-- `SP <- n` (R16). -/
def State.setSp (s : State) (n : Fin 17) : State := { s with sp := n }

/-- `DT <- b` (R17). -/
def State.setDt (s : State) (b : Byte) : State := { s with dt := b }

/-- `ST <- b` (R18). -/
def State.setSt (s : State) (b : Byte) : State := { s with st := b }

/-- `MEM <- m`, the whole memory at once. -/
def State.setMem (s : State) (m : Memory) : State := { s with mem := m }

/-- `FB <- f`, the whole framebuffer at once. -/
def State.setFb (s : State) (f : Framebuffer) : State := { s with fb := f }

/-- `KEY[k] <- b` (R19, R164). -/
def State.writeKey (s : State) (k : Reg) (b : Bool) : State := { s with key := s.key.set k b }

/-- `WAIT <- b` (R21). -/
def State.setWait (s : State) (b : Bool) : State := { s with wait := b }

/-- `WAITX <- x` (R21). -/
def State.setWaitx (s : State) (x : Reg) : State := { s with waitx := x }

/-- `for k = 0..15: KPREV[k] <- KEY[k]` (R142, R143). -/
def State.snapshotKeys (s : State) : State := { s with kprev := s.key }

/-- The environment's side replaced; the hardware's state as it was. -/
def State.setEnv (s : State) (e : Env) : State := { s with env := e }

/-- The side input of the Step being performed (R64). -/
def State.supplyRnd (s : State) (rnd : Byte) : State := s.setEnv { s.env with rnd := rnd }

/-! ## The call stack -/

/-- STACK[k] (R15). -/
def State.stackAt (s : State) (k : Reg) : Word := s.stack[k]

/-- `STACK[k] <- w` (R15). -/
def State.writeStack (s : State) (k : Reg) (w : Word) : State := { s with stack := s.stack.set k w }

/-- `STACK[SP] <- w; SP <- SP + 1`, or none where the stack is full, SP = 16 (R83, R152). -/
def State.push (s : State) (w : Word) : Option State :=
  if h : s.sp.val < Config.stackDepth then
    some ((s.writeStack ⟨s.sp.val, h⟩ w).setSp ⟨s.sp.val + 1, Nat.succ_lt_succ h⟩)
  else none

/-- `SP <- SP - 1` and the entry STACK[SP] read with the new SP, or none where the stack is empty, SP = 0. The popped
entry keeps its value (R15, R81, R153). -/
def State.pop (s : State) : Option (Word × State) :=
  match h : s.sp.val with
  | 0 => none
  | k + 1 => some (s.stackAt ⟨k, by omega⟩, s.setSp ⟨k, by omega⟩)

/-! ## The framebuffer -/

/-- `FB[row][col]` (R20). -/
def State.pixel (s : State) (row : Fin 32) (col : Fin 64) : Bool := s.fb[row][col]

/-- The framebuffer with every pixel 0 (R130). -/
def Framebuffer.clear : Framebuffer := Vector.replicate 32 (Vector.replicate 64 false)

/-- `FB[row][col] <- FB[row][col] xor 1` (R131). -/
def Framebuffer.flip (f : Framebuffer) (row : Fin 32) (col : Fin 64) : Framebuffer :=
  f.set row (f[row].set col (!f[row][col]))

/-! ## The program counter (R69) -/

/-- `PC <- (PC + 2) mod 65536`: the next instruction. -/
def State.advance (s : State) : State := s.setPc (s.pc + 2#16)

/-- `PC <- (PC + 4) mod 65536`: past the next instruction. -/
def State.skip (s : State) : State := s.setPc (s.pc + 4#16)

/-- The end of every instruction that goes on to the next one. -/
def done (s : State) : Result := .next s.advance

/-- The end of every conditional skip: PC + 4 if the condition holds, else PC + 2 (41_skip.md). -/
def skipIf (c : Bool) (s : State) : Result := .next (if c then s.skip else s.advance)

/-! ## Errors -/

/-- `raise Kind(info)`: the Step ends at once with the error and the state is exactly the state before the Step
(00_scope.md R6, R155). Nothing is saved, no mode changes and control goes nowhere inside the machine (R156); there
is no return from it (R157). The one operation every error of every instruction goes through. -/
def raise (f : Fault) : Result := .fault f

/-- Go on with a value, or raise `f` where there is none: every check is made before the first write (R6). -/
def orRaise {α : Type} (f : Fault) (x : Option α) (k : α → Result) : Result :=
  match x with
  | some a => k a
  | none => raise f

/-- The code of an error kind (R150; 0 is Ok). -/
def Fault.code (f : Fault) : Nat :=
  match f with
  | .unimplementedInstruction _ => 1
  | .stackOverflow => 2
  | .stackUnderflow => 3
  | .memoryOutOfBounds => 4

/-- The info an error carries: the opcode with code 1, nothing else (R150, R154). -/
def Fault.info (f : Fault) : Option Word :=
  match f with
  | .unimplementedInstruction opcode => some opcode
  | .stackOverflow | .stackUnderflow | .memoryOutOfBounds => none

end Sys2Proof.Machine
end

