-- ==== Sys2Proof/Machine/Operands.lean ====
section
/-!
DEFINITION. The operand forms beyond a plain register: 12-bit addresses, the key and digit selected by a low nibble,
the decimal digits of a byte, the lit pixels of a sprite (30_encoding.md R63, 20_memory.md R54).
-/

namespace Sys2Proof.Machine

/-- `zext_16(nnn)` (R63). -/
def addr16 (nnn : Imm12) : Word := nnn.setWidth 16

/-- `zext_16(V[x])` (R84, R121). -/
def byte16 (b : Byte) : Word := b.setWidth 16

/-- The address a data access starts at: I as a natural number (R54, R48). -/
def State.indexAddr (s : State) : Nat := s.i.toNat

/-- `V[x][3:0]`: the key Ex9E and ExA1 test, the digit Fx29 takes (R140, R122). -/
def lowNibble (b : Byte) : Reg := (b.extractLsb' 0 4).toFin

/-- `FONT_BASE + 5 * d`: the address of font sprite d (R122). -/
def fontAddr (d : Reg) : Word := BitVec.ofNat 16 (Config.fontBase + Config.fontStride * d.val)

/-- Hundreds, tens and units of a byte, one digit per byte, by natural-number division (R123). -/
def decimalDigits (b : Byte) : List Byte :=
  [BitVec.ofNat 8 (b.toNat / 100), BitVec.ofNat 8 (b.toNat / 10 % 10), BitVec.ofNat 8 (b.toNat % 10)]

/-- The index of a key as a byte: `zext_8(k)` (R143). -/
def keyByte (k : Reg) : Byte := BitVec.ofNat 8 k.val

/-- A position on the screen, each coordinate reduced separately (R132). -/
def wrapPixel (row col : Nat) : Fin 32 × Fin 64 := (Fin.ofNat Config.fbHeight row, Fin.ofNat Config.fbWidth col)

/-- The pixels one sprite row lights, left to right: bit 7 is the leftmost (R132). -/
def rowPixels (x0 row : Nat) (b : Byte) : List (Fin 32 × Fin 64) :=
  ((List.range 8).filter fun c => b.getLsbD (7 - c)).map fun c => wrapPixel row (x0 + c)

/-- The pixels a sprite lights, row by row from `row` down; a sprite bit of 0 touches nothing (R131). -/
def spritePixels (x0 row : Nat) (bytes : List Byte) : List (Fin 32 × Fin 64) :=
  match bytes with
  | [] => []
  | b :: rest => rowPixels x0 row b ++ spritePixels x0 (row + 1) rest

end Sys2Proof.Machine
end

