-- ==== Sys2Proof/Machine/Alu.lean ====
section
/-!
DEFINITION. Register load, arithmetic, logic, shift, random (42_alu.md). The five flag-writing instructions write VF
first and their result second, and each statement reads the registers as the one before left them (00_scope.md R8,
92_eei_decisions.md D6): that decides the outcome when x or y is 0xF.
-/

namespace Sys2Proof.Machine

/-- 6xnn: `V[x] <- nn` (R100). -/
def execLdImm (x : Reg) (nn : Byte) (s : State) : Result := done (s.writeV x nn)

/-- 7xnn: `V[x] <- (V[x] + nn) mod 256`, no flag (R101). -/
def execAddImm (x : Reg) (nn : Byte) (s : State) : Result := done (s.writeV x (s.readV x + nn))

/-- 8xy0: `V[x] <- V[y]` (R102). -/
def execLdReg (x y : Reg) (s : State) : Result := done (s.writeV x (s.readV y))

/-- 8xy1: `V[x] <- V[x] | V[y]`, VF untouched (R103). -/
def execOr (x y : Reg) (s : State) : Result := done (s.writeV x (s.readV x ||| s.readV y))

/-- 8xy2: `V[x] <- V[x] & V[y]`, VF untouched (R104). -/
def execAnd (x y : Reg) (s : State) : Result := done (s.writeV x (s.readV x &&& s.readV y))

/-- 8xy3: `V[x] <- V[x] ^ V[y]`, VF untouched (R105). -/
def execXor (x y : Reg) (s : State) : Result := done (s.writeV x (s.readV x ^^^ s.readV y))

/-- `VF <- f`, then `V[x] <- g` of the registers as the flag write left them: the shape of 8xy4, 8xy5 and 8xy7. -/
def flagThenResult (f : Byte) (x : Reg) (g : State → Byte) (s : State) : Result :=
  done ((s.writeFlag f).writeV x (g (s.writeFlag f)))

/-- `VF <- f`, then `V[y] <- g V[y]`, then `V[x] <- V[y]`: the shape of 8xy6 and 8xyE (SHIFT_SOURCE_VY = true). -/
def flagThenShift (f : Byte) (x y : Reg) (g : Byte → Byte) (s : State) : Result :=
  let r := g ((s.writeFlag f).readV y)
  done (((s.writeFlag f).writeV y r).writeV x r)

/-- 8xy4: `VF <- carry; V[x] <- (V[x] + V[y]) mod 256` (R106). -/
def execAddReg (x y : Reg) (s : State) : Result :=
  flagThenResult (carryFlag (s.readV x) (s.readV y)) x (fun t => t.readV x + t.readV y) s

/-- 8xy5: `VF <- V[x] > V[y]; V[x] <- (V[x] - V[y]) mod 256` (R107). -/
def execSub (x y : Reg) (s : State) : Result :=
  flagThenResult (greaterFlag (s.readV x) (s.readV y)) x (fun t => t.readV x - t.readV y) s

/-- 8xy6: `VF <- V[y][0]; V[y] <- V[y] >> 1; V[x] <- V[y]` (R108). -/
def execShr (x y : Reg) (s : State) : Result :=
  flagThenShift (lowBitFlag (s.readV y)) x y (fun b => b >>> 1) s

/-- 8xy7: `VF <- V[y] > V[x]; V[x] <- (V[y] - V[x]) mod 256` (R109). -/
def execSubn (x y : Reg) (s : State) : Result :=
  flagThenResult (greaterFlag (s.readV y) (s.readV x)) x (fun t => t.readV y - t.readV x) s

/-- 8xyE: `VF <- V[y][7]; V[y] <- (V[y] << 1) mod 256; V[x] <- V[y]` (R110). -/
def execShl (x y : Reg) (s : State) : Result :=
  flagThenShift (highBitFlag (s.readV y)) x y (fun b => b <<< 1) s

/-- Cxnn: `V[x] <- rnd & nn`, `rnd` the side input of this Step (R111). -/
def execRnd (x : Reg) (nn : Byte) (s : State) : Result := done (s.writeV x (s.env.rnd &&& nn))

end Sys2Proof.Machine
end

