-- ==== Sys2Proof/Machine/Display.lean ====
section
/-!
DEFINITION. The display (44_display.md): 00E0 and Dxyn.
-/

namespace Sys2Proof.Machine

/-- 00E0: every pixel becomes 0; VF is not written (R130). -/
def execCls (s : State) : Result := done (s.setFb Framebuffer.clear)

/-- One lit sprite pixel: remember whether it erases a lit one, then flip it (R131). -/
def drawPixel (acc : Framebuffer × Bool) (p : Fin 32 × Fin 64) : Framebuffer × Bool :=
  (acc.1.flip p.1 p.2, acc.2 || acc.1[p.1][p.2])

/-- The framebuffer after a sprite's lit pixels are drawn in order, and whether any was erased (R131). -/
def drawPixels (f : Framebuffer) (ps : List (Fin 32 × Fin 64)) : Framebuffer × Bool :=
  ps.foldl drawPixel (f, false)

/-- Dxyn: XOR the n sprite rows at MEM[I] onto the screen at column V[x], row V[y], wrapping each pixel, and write VF
last (R131, R132). With n = 0 nothing is read, checked or drawn, and VF becomes 0. -/
def execDrw (x y : Reg) (n : Nibble) (s : State) : Result :=
  orRaise .memoryOutOfBounds (s.loadBytes s.indexAddr n.toNat) fun bytes =>
    let drawn := drawPixels s.fb (spritePixels (s.readV x).toNat (s.readV y).toNat bytes)
    done ((s.setFb drawn.1).writeFlag (erasedFlag drawn.2))

end Sys2Proof.Machine
end

