-- ==== Sys2Proof/Machine/Flow.lean ====
section
/-!
DEFINITION. Control transfer (40_flow.md): SYS, RET, JP, CALL, JP V0. While an instruction executes, PC is the address
of the instruction itself (10_state.md R14). No target is validated when it is written.
-/

namespace Sys2Proof.Machine

/-- 0nnn: raises UnimplementedInstruction with the whole opcode, always (R80). -/
def execSys (nnn : Imm12) (_s : State) : Result := raise (.unimplementedInstruction (addr16 nnn))

/-- 00EE: `SP <- SP - 1; PC <- STACK[SP] + 2`; StackUnderflow on an empty stack (R81). -/
def execRet (s : State) : Result :=
  orRaise .stackUnderflow s.pop fun (w, t) => .next (t.setPc (w + 2#16))

/-- 1nnn: `PC <- nnn` (R82). -/
def execJp (nnn : Imm12) (s : State) : Result := .next (s.setPc (addr16 nnn))

/-- 2nnn: push the address of this instruction, then `PC <- nnn`; StackOverflow on a full stack (R83). -/
def execCall (nnn : Imm12) (s : State) : Result :=
  orRaise .stackOverflow (s.push s.pc) fun t => .next (t.setPc (addr16 nnn))

/-- Bnnn: `PC <- nnn + V[0]`, not reduced to 12 bits (R84). -/
def execJpV0 (nnn : Imm12) (s : State) : Result := .next (s.setPc (addr16 nnn + byte16 (s.readV 0)))

end Sys2Proof.Machine
end

