-- ==== Sys2Proof/Machine/IndexMemory.lean ====
section
/-!
DEFINITION. The index register and the memory transfers (43_index_memory.md). The bound check is on the whole range,
before the first write (20_memory.md R48); I is not written by any transfer (LOADSTORE_INC_I = false).
-/

namespace Sys2Proof.Machine

/-- Annn: `I <- nnn` (R120). -/
def execLdI (nnn : Imm12) (s : State) : Result := done (s.setI (addr16 nnn))

/-- Fx1E: `I <- (I + V[x]) mod 65536`, no flag, no bound check (R121). -/
def execAddI (x : Reg) (s : State) : Result := done (s.setI (s.i + byte16 (s.readV x)))

/-- Fx29: `I <- FONT_BASE + 5 * V[x][3:0]`, no memory access (R122). -/
def execLdF (x : Reg) (s : State) : Result := done (s.setI (fontAddr (lowNibble (s.readV x))))

/-- Fx33: the decimal digits of V[x] to MEM[I], MEM[I+1], MEM[I+2] (R123). -/
def execLdB (x : Reg) (s : State) : Result :=
  orRaise .memoryOutOfBounds (s.storeBytes s.indexAddr (decimalDigits (s.readV x))) done

/-- Fx55: V[0] to V[x] to MEM[I] to MEM[I+x] (R124). -/
def execLdMemVx (x : Reg) (s : State) : Result :=
  orRaise .memoryOutOfBounds (s.storeBytes s.indexAddr (s.regsUpTo x)) done

/-- Fx65: MEM[I] to MEM[I+x] to V[0] to V[x] (R125). -/
def execLdVxMem (x : Reg) (s : State) : Result :=
  orRaise .memoryOutOfBounds (s.loadBytes s.indexAddr (x.val + 1)) fun bytes => done (s.writeRegs bytes)

end Sys2Proof.Machine
end

