-- ==== Sys2Proof/Machine/KeysTimers.lean ====
section
/-!
DEFINITION. Keys and timers (45_keys_timers.md): the key skips, Fx0A with its waiting Step, and the timer accesses.
No instruction writes KEY (10_state.md R19) and none decrements a timer (R17).
-/

namespace Sys2Proof.Machine

/-- `KEY[V[x][3:0]]`: the key Ex9E and ExA1 test (R140, 92_eei_decisions.md D13). -/
def State.keyOf (s : State) (x : Reg) : Bool := s.key[lowNibble (s.readV x)]

/-- Ex9E: skip if the key is pressed (R140). -/
def execSkp (x : Reg) (s : State) : Result := skipIf (s.keyOf x) s

/-- ExA1: skip if the key is not pressed (R141). -/
def execSknp (x : Reg) (s : State) : Result := skipIf (!s.keyOf x) s

/-- Fx07: `V[x] <- DT` (R144). -/
def execLdVxDt (x : Reg) (s : State) : Result := done (s.writeV x s.dt)

/-- Fx0A, the Step that fetches it: `WAITX <- x; KPREV <- KEY; WAIT <- 1`, PC stays on the Fx0A (R142). -/
def execLdVxK (x : Reg) (s : State) : Result := .next ((s.setWaitx x).snapshotKeys.setWait true)

/-- Fx15: `DT <- V[x]` (R145). -/
def execLdDtVx (x : Reg) (s : State) : Result := done (s.setDt (s.readV x))

/-- Fx18: `ST <- V[x]` (R146). -/
def execLdStVx (x : Reg) (s : State) : Result := done (s.setSt (s.readV x))

/-- The lowest key that is down now and was up at the previous look (R143, 92_eei_decisions.md D14). -/
def State.newKey (s : State) : Option Reg := (List.finRange 16).find? fun k => s.key[k] && !s.kprev[k]

/-- A Step with WAIT = 1: complete the Fx0A with the lowest newly pressed key, or take a new snapshot of the keys and
stay suspended. No fetch and no decode, so no error (R143). -/
def resumeWait (s : State) : State :=
  match s.newKey with
  | some k => (s.writeV s.waitx (keyByte k)).advance.setWait false
  | none => s.snapshotKeys

end Sys2Proof.Machine
end

