-- ==== Sys2Proof/Machine/Skip.lean ====
section
/-!
DEFINITION. The register-compare skips (41_skip.md). The instruction passed over is not fetched, decoded or checked.
-/

namespace Sys2Proof.Machine

/-- 3xnn: skip if V[x] = nn (R90). -/
def execSeImm (x : Reg) (nn : Byte) (s : State) : Result := skipIf (s.readV x == nn) s

/-- 4xnn: skip if V[x] ≠ nn (R91). -/
def execSneImm (x : Reg) (nn : Byte) (s : State) : Result := skipIf (s.readV x != nn) s

/-- 5xy0: skip if V[x] = V[y] (R92). -/
def execSeReg (x y : Reg) (s : State) : Result := skipIf (s.readV x == s.readV y) s

/-- 9xy0: skip if V[x] ≠ V[y] (R93). -/
def execSneReg (x y : Reg) (s : State) : Result := skipIf (s.readV x != s.readV y) s

end Sys2Proof.Machine
end

