-- ==== Sys2Proof/Syntax.lean ====
section
/-!
DEFINITION. The instructions: one constructor per row of spec/opcode_table.json, in its order, with the fields of
the row's format (30_encoding.md R62, R65, R70).
-/

namespace Sys2Proof

/-- The 35 instructions of 30_encoding.md R65. Register fields are numbers below 16, `nn` is a byte, `nnn` twelve
bits, `n` four bits (R61, R63). -/
inductive Instr where
  /-- 00E0, clear the display (R130). -/
  | cls
  /-- 00EE, return from a subroutine (R81). -/
  | ret
  /-- 0nnn other than 00E0 and 00EE (R80). -/
  | sys (nnn : Imm12)
  /-- 1nnn, jump (R82). -/
  | jp (nnn : Imm12)
  /-- 2nnn, call a subroutine (R83). -/
  | call (nnn : Imm12)
  /-- 3xnn, skip if V[x] = nn (R90). -/
  | seImm (x : Reg) (nn : Byte)
  /-- 4xnn, skip if V[x] ≠ nn (R91). -/
  | sneImm (x : Reg) (nn : Byte)
  /-- 5xy0, skip if V[x] = V[y] (R92). -/
  | seReg (x y : Reg)
  /-- 6xnn, load an immediate (R100). -/
  | ldImm (x : Reg) (nn : Byte)
  /-- 7xnn, add an immediate (R101). -/
  | addImm (x : Reg) (nn : Byte)
  /-- 8xy0, copy a register (R102). -/
  | ldReg (x y : Reg)
  /-- 8xy1, bitwise or (R103). -/
  | or (x y : Reg)
  /-- 8xy2, bitwise and (R104). -/
  | and (x y : Reg)
  /-- 8xy3, bitwise exclusive or (R105). -/
  | xor (x y : Reg)
  /-- 8xy4, add with carry flag (R106). -/
  | addReg (x y : Reg)
  /-- 8xy5, subtract (R107). -/
  | sub (x y : Reg)
  /-- 8xy6, shift right (R108). -/
  | shr (x y : Reg)
  /-- 8xy7, reverse subtract (R109). -/
  | subn (x y : Reg)
  /-- 8xyE, shift left (R110). -/
  | shl (x y : Reg)
  /-- 9xy0, skip if V[x] ≠ V[y] (R93). -/
  | sneReg (x y : Reg)
  /-- Annn, load I (R120). -/
  | ldI (nnn : Imm12)
  /-- Bnnn, jump to nnn + V[0] (R84). -/
  | jpV0 (nnn : Imm12)
  /-- Cxnn, random byte and mask (R111). -/
  | rnd (x : Reg) (nn : Byte)
  /-- Dxyn, draw a sprite (R131). -/
  | drw (x y : Reg) (n : Nibble)
  /-- Ex9E, skip if a key is pressed (R140). -/
  | skp (x : Reg)
  /-- ExA1, skip if a key is not pressed (R141). -/
  | sknp (x : Reg)
  /-- Fx07, read the delay timer (R144). -/
  | ldVxDt (x : Reg)
  /-- Fx0A, wait for a key (R142). -/
  | ldVxK (x : Reg)
  /-- Fx15, set the delay timer (R145). -/
  | ldDtVx (x : Reg)
  /-- Fx18, set the sound timer (R146). -/
  | ldStVx (x : Reg)
  /-- Fx1E, add to I (R121). -/
  | addI (x : Reg)
  /-- Fx29, address of a font sprite (R122). -/
  | ldF (x : Reg)
  /-- Fx33, store the decimal digits (R123). -/
  | ldB (x : Reg)
  /-- Fx55, store registers (R124). -/
  | ldMemVx (x : Reg)
  /-- Fx65, load registers (R125). -/
  | ldVxMem (x : Reg)
  deriving DecidableEq, Repr

end Sys2Proof
end

