-- ==== Sys2Proof/Machine/Driver.lean ====
section
/-!
DEFINITION. The operations of the environment (00_scope.md R3): PowerOn, Load, LoadFont, Init, TickTimers, SetKey,
Observe, and the choice of the next operation from the environment's script.
-/

namespace Sys2Proof.Machine

/-- `PowerOn`: every piece of state as R30 says (R180). The environment's side is not the core's and stays. -/
def powerOn (s : State) : State := State.reset.setEnv s.env

/-- `Init`: PC, I, SP and WAIT; everything else keeps its value (R31, R182). -/
def initCore (s : State) : State := (((s.setPc Config.progStart).setI 0#16).setSp 0).setWait false

/-- Does a program of this length end at or below 0xFFF? `0x200 + L ≤ 0x1000` (R181). -/
def loadFits (bytes : List Byte) : Bool := decide (Config.progStart.toNat + bytes.length ≤ Config.memSize)

/-- What `Load` leaves when it succeeds: the bytes at 0x200 and on (R181). -/
def loadProgram (bytes : List Byte) (s : State) : State :=
  s.setMem (Memory.writeRange s.mem Config.progStart.toNat bytes)

/-- The sprites of 0 to 7, five bytes each (R184). -/
def fontLow : List Byte :=
  [0xF0#8, 0x90#8, 0x90#8, 0x90#8, 0xF0#8] ++ [0x20#8, 0x60#8, 0x20#8, 0x20#8, 0x70#8] ++
  [0xF0#8, 0x10#8, 0xF0#8, 0x80#8, 0xF0#8] ++ [0xF0#8, 0x10#8, 0xF0#8, 0x10#8, 0xF0#8] ++
  [0x90#8, 0x90#8, 0xF0#8, 0x10#8, 0x10#8] ++ [0xF0#8, 0x80#8, 0xF0#8, 0x10#8, 0xF0#8] ++
  [0xF0#8, 0x80#8, 0xF0#8, 0x90#8, 0xF0#8] ++ [0xF0#8, 0x10#8, 0x20#8, 0x40#8, 0x40#8]

/-- The sprites of 8 to F, five bytes each (R184). -/
def fontHigh : List Byte :=
  [0xF0#8, 0x90#8, 0xF0#8, 0x90#8, 0xF0#8] ++ [0xF0#8, 0x90#8, 0xF0#8, 0x10#8, 0xF0#8] ++
  [0xF0#8, 0x90#8, 0xF0#8, 0x90#8, 0x90#8] ++ [0xE0#8, 0x90#8, 0xE0#8, 0x90#8, 0xE0#8] ++
  [0xF0#8, 0x80#8, 0x80#8, 0x80#8, 0xF0#8] ++ [0xE0#8, 0x90#8, 0x90#8, 0x90#8, 0xE0#8] ++
  [0xF0#8, 0x80#8, 0xF0#8, 0x80#8, 0xF0#8] ++ [0xF0#8, 0x80#8, 0xF0#8, 0x80#8, 0x80#8]

/-- The 80 bytes of the font, `[from general knowledge, not in source]` as the spec marks them (R184). -/
def fontTable : List Byte := fontLow ++ fontHigh

/-- `LoadFont`: the font at FONT_BASE and on (R184). -/
def loadFont (s : State) : State := s.setMem (Memory.writeRange s.mem Config.fontBase fontTable)

/-- A timer decremented with a floor at 0 (R161). -/
def tickDown (b : Byte) : Byte := if b.toNat > 0 then b - 1#8 else b

/-- `TickTimers`: both timers in the same operation (R161). -/
def tickTimers (s : State) : State := (s.setDt (tickDown s.dt)).setSt (tickDown s.st)

/-- The sound signal: ST > 0 (R163). -/
def State.soundOn (s : State) : Bool := decide (s.st.toNat > 0)

/-- What `Observe` shows the driver: FB, ST, WAIT (R3, R163, R165, R21). -/
structure Observation where
  fb : Framebuffer
  st : Byte
  sound : Bool
  wait : Bool
  deriving DecidableEq, Repr

/-- `Observe` (R3): reads without changing anything. -/
def observe (s : State) : Observation := { fb := s.fb, st := s.st, sound := s.soundOn, wait := s.wait }

/-- What an operation answers the environment (R3, R150). -/
inductive Answer where
  /-- `Ok`, or the end of an operation that cannot fail. -/
  | ok
  /-- `Err(kind, info)` of a Step. -/
  | err (f : Fault)
  /-- The failure of `Load` (R181). -/
  | loadTooLarge
  /-- What `Observe` read. -/
  | seen (o : Observation)
  /-- The model gave the Step no meaning; no instruction of this model answers so. -/
  | noMeaning (r : Refusal)
  deriving DecidableEq, Repr

/-- One operation of the environment other than Step: the state it leaves and what it answers. -/
def driverMove (op : DriverOp) (s : State) : State × Answer :=
  match op with
  | .powerOn => (powerOn s, .ok)
  | .load bytes => if loadFits bytes then (loadProgram bytes s, .ok) else (s, .loadTooLarge)
  | .loadFont => (loadFont s, .ok)
  | .init => (initCore s, .ok)
  | .tickTimers => (tickTimers s, .ok)
  | .setKey k down => (s.writeKey k down, .ok)
  | .observe => (s, .seen (observe s))

/-- The operation the environment performs next and the state with it taken off the script: the first scripted one, or
else a Step with a fresh free random byte (R7, R111, log entries 1 and 2). -/
def nextOperation (s : State) : Operation × State :=
  match s.env.script with
  | op :: rest => (op, s.setEnv { s.env with script := rest })
  | [] => (.step (Config.randomByte s.env.draws), s.setEnv { s.env with draws := s.env.draws + 1 })

end Sys2Proof.Machine
end

