-- ==== Sys2Proof/WellFormed.lean ====
section
/-!
DEFINITION. When an instruction term stands for a word of its own. The field types already bound every operand; the
one remaining condition is 30_encoding.md R65's: the words 0x00E0 and 0x00EE are CLS and RET, so SYS stands only for
the other 4094 words with op = 0.
-/

namespace Sys2Proof

/-- `i` is the meaning of some opcode word (R65: SYS excludes 0x00E0 and 0x00EE). -/
def Instr.wf (i : Instr) : Bool :=
  match i with
  | .sys nnn => nnn != 0x0E0#12 && nnn != 0x0EE#12
  | .cls | .ret | .jp _ | .call _ | .seImm _ _ | .sneImm _ _ | .seReg _ _ | .ldImm _ _ | .addImm _ _
  | .ldReg _ _ | .or _ _ | .and _ _ | .xor _ _ | .addReg _ _ | .sub _ _ | .shr _ _ | .subn _ _ | .shl _ _
  | .sneReg _ _ | .ldI _ | .jpV0 _ | .rnd _ _ | .drw _ _ _ | .skp _ | .sknp _ | .ldVxDt _ | .ldVxK _
  | .ldDtVx _ | .ldStVx _ | .addI _ | .ldF _ | .ldB _ | .ldMemVx _ | .ldVxMem _ => true

end Sys2Proof
end

