-- ==== Sys2Proof/Decode.lean ====
section
/-!
DEFINITION. The fields of an opcode word, the opcode table, the decoder (total, rejecting by name) and the encoder
(30_encoding.md R60 to R67).
-/

namespace Sys2Proof

/-! ## Fields (R61) -/

/-- `op`, bits 15:12. -/
def opField (w : Word) : Nibble := w.extractLsb' 12 4

/-- `x`, bits 11:8, as a register number. -/
def xField (w : Word) : Reg := (w.extractLsb' 8 4).toFin

/-- `y`, bits 7:4, as a register number. -/
def yField (w : Word) : Reg := (w.extractLsb' 4 4).toFin

/-- `n`, bits 3:0. -/
def nField (w : Word) : Nibble := w.extractLsb' 0 4

/-- `nn`, bits 7:0. -/
def nnField (w : Word) : Byte := w.extractLsb' 0 8

/-- `nnn`, bits 11:0. -/
def nnnField (w : Word) : Imm12 := w.extractLsb' 0 12

/-! ## Decoder -/

/-- The nine 8xyN patterns: the low nibble selects (R65 rows 11 to 19); any other is no instruction (R66). -/
def decodeArith (w : Word) : Option Instr :=
  match nField w with
  | 0x0#4 => some (.ldReg (xField w) (yField w))
  | 0x1#4 => some (.or (xField w) (yField w))
  | 0x2#4 => some (.and (xField w) (yField w))
  | 0x3#4 => some (.xor (xField w) (yField w))
  | 0x4#4 => some (.addReg (xField w) (yField w))
  | 0x5#4 => some (.sub (xField w) (yField w))
  | 0x6#4 => some (.shr (xField w) (yField w))
  | 0x7#4 => some (.subn (xField w) (yField w))
  | 0xE#4 => some (.shl (xField w) (yField w))
  | _ => none

/-- The two ExNN patterns: the low byte selects (R65 rows 25 and 26). -/
def decodeKeys (w : Word) : Option Instr :=
  match nnField w with
  | 0x9E#8 => some (.skp (xField w))
  | 0xA1#8 => some (.sknp (xField w))
  | _ => none

/-- The nine FxNN patterns: the low byte selects (R65 rows 27 to 35). -/
def decodeMisc (w : Word) : Option Instr :=
  match nnField w with
  | 0x07#8 => some (.ldVxDt (xField w))
  | 0x0A#8 => some (.ldVxK (xField w))
  | 0x15#8 => some (.ldDtVx (xField w))
  | 0x18#8 => some (.ldStVx (xField w))
  | 0x1E#8 => some (.addI (xField w))
  | 0x29#8 => some (.ldF (xField w))
  | 0x33#8 => some (.ldB (xField w))
  | 0x55#8 => some (.ldMemVx (xField w))
  | 0x65#8 => some (.ldVxMem (xField w))
  | _ => none

/-- The words with op = 0: CLS and RET first, SYS for every other (R65 rows 1 to 3). -/
def decodeZero (w : Word) : Instr :=
  if nnnField w = 0x0E0#12 then .cls
  else if nnnField w = 0x0EE#12 then .ret
  else .sys (nnnField w)

/-- The instruction an opcode word stands for, or none for a word that matches no pattern (R65, R66, R67). -/
def decodeWord (w : Word) : Option Instr :=
  match opField w with
  | 0x0#4 => some (decodeZero w)
  | 0x1#4 => some (.jp (nnnField w))
  | 0x2#4 => some (.call (nnnField w))
  | 0x3#4 => some (.seImm (xField w) (nnField w))
  | 0x4#4 => some (.sneImm (xField w) (nnField w))
  | 0x5#4 => if nField w = 0x0#4 then some (.seReg (xField w) (yField w)) else none
  | 0x6#4 => some (.ldImm (xField w) (nnField w))
  | 0x7#4 => some (.addImm (xField w) (nnField w))
  | 0x8#4 => decodeArith w
  | 0x9#4 => if nField w = 0x0#4 then some (.sneReg (xField w) (yField w)) else none
  | 0xA#4 => some (.ldI (nnnField w))
  | 0xB#4 => some (.jpV0 (nnnField w))
  | 0xC#4 => some (.rnd (xField w) (nnField w))
  | 0xD#4 => some (.drw (xField w) (yField w) (nField w))
  | 0xE#4 => decodeKeys w
  | _ => decodeMisc w

/-- Why bytes are no instruction. -/
inductive DecodeReject where
  /-- Fewer than the two bytes every instruction has (R60). -/
  | truncated
  /-- A whole word that matches no pattern of R65 (R66). -/
  | unimplemented (opcode : Word)
  deriving DecidableEq, Repr

/-- The two bytes of a word, the high byte first: the order they lie in memory (R42, R60). -/
def wordBytes (w : Word) : List Byte := [w.hiByte, w.loByte]

/-- The opcode of two bytes: `MEM[PC] * 256 + MEM[PC+1]` (R42). -/
def composeWord (hi lo : Byte) : Word := hi ++ lo

/-- Decode the instruction at the front of a byte list and give back the rest, or reject by name. -/
def decode (bytes : List Byte) : Except DecodeReject (Instr × List Byte) :=
  match bytes with
  | hi :: lo :: rest =>
    match decodeWord (composeWord hi lo) with
    | some i => .ok (i, rest)
    | none => .error (.unimplemented (composeWord hi lo))
  | [] | [_] => .error .truncated

/-- The word that `nbits` and `w` of the opcode table's numbering stand for: bits above `nbits` are 0, and no
instruction is longer than one word (R60). -/
def tableWord (nbits w : Nat) : Word := BitVec.ofNat 16 (w % 2 ^ min nbits 16)

/-- The instruction the decoder reads from a word numbered as spec/opcode_table.json numbers it, laid out as the
hardware stores it. -/
def decodeTableWord (nbits w : Nat) : Option Instr :=
  match decode (wordBytes (tableWord nbits w)) with
  | .ok (i, _) => some i
  | .error _ => none

/-! ## Encoder (R62, R65) -/

/-- Format NNN: op, nnn. -/
def encodeNNN (op : Nibble) (nnn : Imm12) : Word := op ++ nnn

/-- Format XNN: op, x, nn. -/
def encodeXNN (op : Nibble) (x : Reg) (nn : Byte) : Word := op ++ (BitVec.ofFin x : Nibble) ++ nn

/-- Formats XY and XYN: op, x, y, and the low nibble, a literal or n. -/
def encodeXYN (op : Nibble) (x y : Reg) (n : Nibble) : Word :=
  op ++ (BitVec.ofFin x : Nibble) ++ (BitVec.ofFin y : Nibble) ++ n

/-- The opcode word of an instruction. -/
def encode (i : Instr) : Word :=
  match i with
  | .cls => 0x00E0#16
  | .ret => 0x00EE#16
  | .sys nnn => encodeNNN 0x0#4 nnn
  | .jp nnn => encodeNNN 0x1#4 nnn
  | .call nnn => encodeNNN 0x2#4 nnn
  | .seImm x nn => encodeXNN 0x3#4 x nn
  | .sneImm x nn => encodeXNN 0x4#4 x nn
  | .seReg x y => encodeXYN 0x5#4 x y 0x0#4
  | .ldImm x nn => encodeXNN 0x6#4 x nn
  | .addImm x nn => encodeXNN 0x7#4 x nn
  | .ldReg x y => encodeXYN 0x8#4 x y 0x0#4
  | .or x y => encodeXYN 0x8#4 x y 0x1#4
  | .and x y => encodeXYN 0x8#4 x y 0x2#4
  | .xor x y => encodeXYN 0x8#4 x y 0x3#4
  | .addReg x y => encodeXYN 0x8#4 x y 0x4#4
  | .sub x y => encodeXYN 0x8#4 x y 0x5#4
  | .shr x y => encodeXYN 0x8#4 x y 0x6#4
  | .subn x y => encodeXYN 0x8#4 x y 0x7#4
  | .shl x y => encodeXYN 0x8#4 x y 0xE#4
  | .sneReg x y => encodeXYN 0x9#4 x y 0x0#4
  | .ldI nnn => encodeNNN 0xA#4 nnn
  | .jpV0 nnn => encodeNNN 0xB#4 nnn
  | .rnd x nn => encodeXNN 0xC#4 x nn
  | .drw x y n => encodeXYN 0xD#4 x y n
  | .skp x => encodeXNN 0xE#4 x 0x9E#8
  | .sknp x => encodeXNN 0xE#4 x 0xA1#8
  | .ldVxDt x => encodeXNN 0xF#4 x 0x07#8
  | .ldVxK x => encodeXNN 0xF#4 x 0x0A#8
  | .ldDtVx x => encodeXNN 0xF#4 x 0x15#8
  | .ldStVx x => encodeXNN 0xF#4 x 0x18#8
  | .addI x => encodeXNN 0xF#4 x 0x1E#8
  | .ldF x => encodeXNN 0xF#4 x 0x29#8
  | .ldB x => encodeXNN 0xF#4 x 0x33#8
  | .ldMemVx x => encodeXNN 0xF#4 x 0x55#8
  | .ldVxMem x => encodeXNN 0xF#4 x 0x65#8

/-- The bytes of an instruction as they lie in memory. -/
def encodeBytes (i : Instr) : List Byte := wordBytes (encode i)

/-! ## The opcode table, as the spec prints it (R65) -/

/-- One row of R65's table: the key of spec/opcode_table.json, the mask and the match. -/
structure OpcodeRow where
  mnemonic : String
  mask : Word
  pattern : Word
  deriving DecidableEq, Repr

/-- A word matches a row when every literal digit of the pattern equals the word's (R65). -/
def OpcodeRow.matchesWord (r : OpcodeRow) (w : Word) : Bool := w &&& r.mask == r.pattern

/-- Rows 1 to 8 of R65. -/
def tableControl : List OpcodeRow :=
  [⟨"CLS", 0xFFFF#16, 0x00E0#16⟩,
   ⟨"RET", 0xFFFF#16, 0x00EE#16⟩,
   ⟨"SYS", 0xF000#16, 0x0000#16⟩,
   ⟨"JP", 0xF000#16, 0x1000#16⟩,
   ⟨"CALL", 0xF000#16, 0x2000#16⟩,
   ⟨"SE_imm", 0xF000#16, 0x3000#16⟩,
   ⟨"SNE_imm", 0xF000#16, 0x4000#16⟩,
   ⟨"SE_reg", 0xF00F#16, 0x5000#16⟩]

/-- Rows 9 to 19 of R65. -/
def tableArith : List OpcodeRow :=
  [⟨"LD_imm", 0xF000#16, 0x6000#16⟩,
   ⟨"ADD_imm", 0xF000#16, 0x7000#16⟩,
   ⟨"LD_reg", 0xF00F#16, 0x8000#16⟩,
   ⟨"OR", 0xF00F#16, 0x8001#16⟩,
   ⟨"AND", 0xF00F#16, 0x8002#16⟩,
   ⟨"XOR", 0xF00F#16, 0x8003#16⟩,
   ⟨"ADD_reg", 0xF00F#16, 0x8004#16⟩,
   ⟨"SUB", 0xF00F#16, 0x8005#16⟩,
   ⟨"SHR", 0xF00F#16, 0x8006#16⟩,
   ⟨"SUBN", 0xF00F#16, 0x8007#16⟩,
   ⟨"SHL", 0xF00F#16, 0x800E#16⟩]

/-- Rows 20 to 26 of R65. -/
def tableIndexDisplay : List OpcodeRow :=
  [⟨"SNE_reg", 0xF00F#16, 0x9000#16⟩,
   ⟨"LD_I", 0xF000#16, 0xA000#16⟩,
   ⟨"JP_V0", 0xF000#16, 0xB000#16⟩,
   ⟨"RND", 0xF000#16, 0xC000#16⟩,
   ⟨"DRW", 0xF000#16, 0xD000#16⟩,
   ⟨"SKP", 0xF0FF#16, 0xE09E#16⟩,
   ⟨"SKNP", 0xF0FF#16, 0xE0A1#16⟩]

/-- Rows 27 to 35 of R65. -/
def tableMisc : List OpcodeRow :=
  [⟨"LD_Vx_DT", 0xF0FF#16, 0xF007#16⟩,
   ⟨"LD_Vx_K", 0xF0FF#16, 0xF00A#16⟩,
   ⟨"LD_DT_Vx", 0xF0FF#16, 0xF015#16⟩,
   ⟨"LD_ST_Vx", 0xF0FF#16, 0xF018#16⟩,
   ⟨"ADD_I", 0xF0FF#16, 0xF01E#16⟩,
   ⟨"LD_F", 0xF0FF#16, 0xF029#16⟩,
   ⟨"LD_B", 0xF0FF#16, 0xF033#16⟩,
   ⟨"LD_mem_Vx", 0xF0FF#16, 0xF055#16⟩,
   ⟨"LD_Vx_mem", 0xF0FF#16, 0xF065#16⟩]

/-- The 35 rows of R65, in order. CLS and RET stand before SYS, whose pattern contains them. -/
def opcodeTable : List OpcodeRow := tableControl ++ tableArith ++ tableIndexDisplay ++ tableMisc

/-- The row of R65 an instruction belongs to. -/
def Instr.row (i : Instr) : OpcodeRow :=
  match i with
  | .cls => ⟨"CLS", 0xFFFF#16, 0x00E0#16⟩
  | .ret => ⟨"RET", 0xFFFF#16, 0x00EE#16⟩
  | .sys _ => ⟨"SYS", 0xF000#16, 0x0000#16⟩
  | .jp _ => ⟨"JP", 0xF000#16, 0x1000#16⟩
  | .call _ => ⟨"CALL", 0xF000#16, 0x2000#16⟩
  | .seImm _ _ => ⟨"SE_imm", 0xF000#16, 0x3000#16⟩
  | .sneImm _ _ => ⟨"SNE_imm", 0xF000#16, 0x4000#16⟩
  | .seReg _ _ => ⟨"SE_reg", 0xF00F#16, 0x5000#16⟩
  | .ldImm _ _ => ⟨"LD_imm", 0xF000#16, 0x6000#16⟩
  | .addImm _ _ => ⟨"ADD_imm", 0xF000#16, 0x7000#16⟩
  | .ldReg _ _ => ⟨"LD_reg", 0xF00F#16, 0x8000#16⟩
  | .or _ _ => ⟨"OR", 0xF00F#16, 0x8001#16⟩
  | .and _ _ => ⟨"AND", 0xF00F#16, 0x8002#16⟩
  | .xor _ _ => ⟨"XOR", 0xF00F#16, 0x8003#16⟩
  | .addReg _ _ => ⟨"ADD_reg", 0xF00F#16, 0x8004#16⟩
  | .sub _ _ => ⟨"SUB", 0xF00F#16, 0x8005#16⟩
  | .shr _ _ => ⟨"SHR", 0xF00F#16, 0x8006#16⟩
  | .subn _ _ => ⟨"SUBN", 0xF00F#16, 0x8007#16⟩
  | .shl _ _ => ⟨"SHL", 0xF00F#16, 0x800E#16⟩
  | .sneReg _ _ => ⟨"SNE_reg", 0xF00F#16, 0x9000#16⟩
  | .ldI _ => ⟨"LD_I", 0xF000#16, 0xA000#16⟩
  | .jpV0 _ => ⟨"JP_V0", 0xF000#16, 0xB000#16⟩
  | .rnd _ _ => ⟨"RND", 0xF000#16, 0xC000#16⟩
  | .drw _ _ _ => ⟨"DRW", 0xF000#16, 0xD000#16⟩
  | .skp _ => ⟨"SKP", 0xF0FF#16, 0xE09E#16⟩
  | .sknp _ => ⟨"SKNP", 0xF0FF#16, 0xE0A1#16⟩
  | .ldVxDt _ => ⟨"LD_Vx_DT", 0xF0FF#16, 0xF007#16⟩
  | .ldVxK _ => ⟨"LD_Vx_K", 0xF0FF#16, 0xF00A#16⟩
  | .ldDtVx _ => ⟨"LD_DT_Vx", 0xF0FF#16, 0xF015#16⟩
  | .ldStVx _ => ⟨"LD_ST_Vx", 0xF0FF#16, 0xF018#16⟩
  | .addI _ => ⟨"ADD_I", 0xF0FF#16, 0xF01E#16⟩
  | .ldF _ => ⟨"LD_F", 0xF0FF#16, 0xF029#16⟩
  | .ldB _ => ⟨"LD_B", 0xF0FF#16, 0xF033#16⟩
  | .ldMemVx _ => ⟨"LD_mem_Vx", 0xF0FF#16, 0xF055#16⟩
  | .ldVxMem _ => ⟨"LD_Vx_mem", 0xF0FF#16, 0xF065#16⟩

end Sys2Proof
end

