-- ==== Sys2Proof/Machine/Fetch.lean ====
section
/-!
DEFINITION. The fetch and decode of a Step (30_encoding.md R64, 20_memory.md R42 to R44), and the placing of a word
where the next Step fetches it.
-/

namespace Sys2Proof.Machine

/-- The two bytes at PC and PC + 1, for any PC even or odd (R43), or none where PC + 1 > 4095 (R48). -/
def State.fetchBytes (s : State) : Option (List Byte) := s.loadBytes s.pc.toNat 2

/-- The error a rejected decode is: the opcode matches no pattern (R66, R151). The two fetched bytes are never
truncated. -/
def rejectFault (r : DecodeReject) : Fault :=
  match r with
  | .unimplemented opcode => .unimplementedInstruction opcode
  | .truncated => .memoryOutOfBounds

/-- Fetch, then decode: the bound check comes before the decode (R158). -/
def State.fetchDecode (s : State) : Except Fault Instr :=
  match s.fetchBytes with
  | none => .error .memoryOutOfBounds
  | some bytes =>
    match decode bytes with
    | .ok (i, _) => .ok i
    | .error r => .error (rejectFault r)

/-- Where the next fetching Step finds its instruction: PC, or PROG_START if nothing can be fetched at PC. -/
def State.fetchPoint (s : State) : Word :=
  if inBounds s.pc.toNat 2 then s.pc else Config.progStart

/-- The state with a word placed where the next Step fetches it: the Step must not be a waiting one (WAIT = 0) and must
be the next operation (nothing scripted before it). -/
def State.placeWord (s : State) (w : Word) : State :=
  let t := ((s.setPc s.fetchPoint).setWait false).setEnv { s.env with script := [] }
  t.setMem (Memory.writeRange t.mem t.pc.toNat (wordBytes w))

end Sys2Proof.Machine
end

