-- ==== Sys2Proof/Machine/Step.lean ====
section
/-!
DEFINITION. `Step(rnd)` (30_encoding.md R64), the operations with their answers, and the host's step: one atomic
operation of the block and its environment (00_scope.md R7).
-/

namespace Sys2Proof.Machine

/-- `Step(rnd)` (R64): the WAIT test first, then the fetch bound check, the decode, the instruction (R158). -/
def stepWith (rnd : Byte) (s : State) : Result :=
  if s.wait then .next (resumeWait s)
  else
    match s.fetchDecode with
    | .error f => raise f
    | .ok i => exec i (s.supplyRnd rnd)

/-- One operation of R3: the state it leaves and its answer. A Step that returns an error leaves the state exactly as
it was (R155), and the environment may go on from there (R169). -/
def perform (op : Operation) (s : State) : State × Answer :=
  match op with
  | .driver d => driverMove d s
  | .step rnd =>
    match stepWith rnd s with
    | .next t => (t, .ok)
    | .fault f => (s, .err f)
    | .refused r => (s, .noMeaning r)

/-- Any finite sequence of operations (R7): the state it leaves. -/
def performAll (ops : List Operation) (s : State) : State :=
  match ops with
  | [] => s
  | op :: rest => performAll rest (perform op s).1

/-- The host's step: the next operation of the environment's script, or a Step with a free random byte when the script
is empty (log entry 2). Only a Step can fault; a scripted operation of the driver always goes on. -/
def step (s : State) : Host.Outcome State Fault Refusal :=
  match nextOperation s with
  | (.step rnd, t) => stepWith rnd t
  | (.driver d, t) => .next (driverMove d t).1

/-- The word of the opcode table's numbering stored where `step` fetches its next instruction. -/
def State.withFetchWord (s : State) (nbits w : Nat) : State := s.placeWord (tableWord nbits w)

end Sys2Proof.Machine
end

