-- ==== Sys2Proof/Safety.lean ====
section
/-!
DEFINITION. The terms claims use: the parts of the state and the frame of an instruction, the invariant of 10_state.md
R32, and what a run without an error is.
-/

namespace Sys2Proof.Machine

/-- The independent parts of the state (R33): each register, entry, pixel, key and memory byte by itself. -/
inductive Part where
  | v (x : Reg)
  | i
  | pc
  | stack (k : Reg)
  | sp
  | dt
  | st
  | key (k : Reg)
  | pixel (row : Fin 32) (col : Fin 64)
  | wait
  | waitx
  | kprev (k : Reg)
  | mem (a : Nat)
  | env
  deriving DecidableEq, Repr

/-- The part has the same value in both states; memory is compared through the read of one byte. -/
def Part.same (p : Part) (s t : State) : Prop :=
  match p with
  | .v x => t.readV x = s.readV x
  | .i => t.i = s.i
  | .pc => t.pc = s.pc
  | .stack k => t.stackAt k = s.stackAt k
  | .sp => t.sp = s.sp
  | .dt => t.dt = s.dt
  | .st => t.st = s.st
  | .key k => t.key[k] = s.key[k]
  | .pixel row col => t.pixel row col = s.pixel row col
  | .wait => t.wait = s.wait
  | .waitx => t.waitx = s.waitx
  | .kprev k => t.kprev[k] = s.kprev[k]
  | .mem a => t.byteAt a = s.byteAt a
  | .env => t.env = s.env

/-- THE FRAME: every part but those named has the value it had. -/
def OnlyChanges (parts : Part → Prop) (s t : State) : Prop := ∀ p, ¬ parts p → p.same s t

/-- Every word that matches the mask and the match of a rule's Encoding line decodes to the instruction the rule gives
it, with the fields of R61. -/
def Encoded (mask pattern : Word) (i : Word → Instr) : Prop :=
  ∀ w : Word, w &&& mask = pattern → decodeWord w = some (i w)

/-- The invariant of R32, with the canonical form of memory, and what a suspended Fx0A adds: it was fetched. -/
structure Invariant (s : State) : Prop where
  /-- Memory keeps its canonical form: no address above 0xFFF, no listed zero. -/
  memory : Memory.wf s.mem = true
  /-- `PC <= 0x10FE` (R32). -/
  pcBound : s.pc.toNat ≤ 0x10FE
  /-- Every live stack entry is the address of a fetched instruction, at most 0xFFE (R32). -/
  liveStack : ∀ k : Reg, k.val < s.sp.val → (s.stackAt k).toNat ≤ 0xFFE
  /-- While an Fx0A is suspended PC is still its address, and it was fetched (R142). -/
  waitFetched : s.wait = true → s.pc.toNat ≤ 0xFFE

/-- The state the first byte of a Step sees: no Fx0A suspended, PC + 1 in bounds, and the two bytes there are the
opcode `w`, high byte first (R42, R64). -/
def Fetches (s : State) (w : Word) : Prop :=
  s.wait = false ∧ s.pc.toNat + 1 ≤ 4095 ∧
    w.toNat = (s.byteAt s.pc.toNat).toNat * 256 + (s.byteAt (s.pc.toNat + 1)).toNat

/-- The hardware's state is the same; the environment's side may differ. -/
def SameCore (s t : State) : Prop := OnlyChanges (fun p => p = .env) s t

/-- A safe run: none of the given operations answers an error of a Step. -/
def SafeRun (ops : List Operation) (s : State) : Prop :=
  match ops with
  | [] => True
  | op :: rest => (∀ f, (perform op s).2 ≠ .err f) ∧ SafeRun rest (perform op s).1

/-- The states some finite sequence of operations reaches from PowerOn (R32). -/
def Reachable (t : State) : Prop := ∃ ops, performAll ops State.reset = t

end Sys2Proof.Machine
end

