-- ==== Sys2Proof/Certificates/Slice0/Obligations.lean ====
section
/-!
DEFINITION. The statements about the model. Each says its rule in arithmetic of its own and names what the instruction
leaves unchanged through `OnlyChanges`. `Encoded` is the rule's Encoding line. Where a rule rests on a decision the
spec marks as its own, the docstring names the decision and the statement is a derived one.
-/

open Sys2Proof Sys2Proof.Machine

/-! ## Encoding -/

/-- Words written out from the encodings of 30_encoding.md section 3 (and the vectors D0 of 95_test_vectors.md), one of
each format and each family, stand for their instructions; four reserved words stand for none. -/
def Obligations.WordsOfEachFormatDecode : Prop :=
  decodeWord 0x00E0#16 = some .cls ∧ decodeWord 0x00EE#16 = some .ret ∧
  decodeWord 0x0EE0#16 = some (.sys 0xEE0#12) ∧ decodeWord 0x1500#16 = some (.jp 0x500#12) ∧
  decodeWord 0x3110#16 = some (.seImm 1 0x10#8) ∧ decodeWord 0x812E#16 = some (.shl 1 2) ∧
  decodeWord 0xD125#16 = some (.drw 1 2 5#4) ∧ decodeWord 0xE39E#16 = some (.skp 3) ∧
  decodeWord 0xF30A#16 = some (.ldVxK 3) ∧ decodeWord 0xF265#16 = some (.ldVxMem 2) ∧
  decodeWord 0x5121#16 = none ∧ decodeWord 0x8128#16 = none ∧ decodeWord 0xE19F#16 = none ∧
  decodeWord 0xF175#16 = none

/-- Decoding the bytes of a well-formed instruction gives the instruction back, whatever bytes follow: no field of any
of the 35 encodings is dropped (30_encoding.md sections 1 and 3). -/
def Obligations.DecodeOfEncodeGivesTheInstruction : Prop :=
  ∀ (i : Instr) (rest : List Byte), i.wf = true →
    decodeWord (encode i) = some i ∧ decode (encodeBytes i ++ rest) = .ok (i, rest)

/-- The other direction: an instruction read from a word is well formed and encodes to that word, so each word has one
meaning (30_encoding.md section 3). -/
def Obligations.EncodeOfDecodeGivesTheWord : Prop :=
  ∀ (w : Word) (i : Instr), decodeWord w = some i → i.wf = true ∧ encode i = w

/-- The decoder follows the opcode table (30_encoding.md sections 3 and 4; that literal digits take part in the match is
the spec's decision D7): a word decodes to nothing exactly if it matches no row, which are the five groups of reserved
words, and the instruction it decodes to belongs to a row it matches. -/
def Obligations.DecoderFollowsTheOpcodeTable : Prop :=
  ∀ w : Word,
    (decodeWord w = none ↔ ∀ r ∈ opcodeTable, r.matchesWord w = false) ∧
    (decodeWord w = none ↔
      (opField w = 0x5#4 ∧ nField w ≠ 0#4) ∨
      (opField w = 0x8#4 ∧ 7 < (nField w).toNat ∧ nField w ≠ 0xE#4) ∨
      (opField w = 0x9#4 ∧ nField w ≠ 0#4) ∨
      (opField w = 0xE#4 ∧ nnField w ≠ 0x9E#8 ∧ nnField w ≠ 0xA1#8) ∨
      (opField w = 0xF#4 ∧
        nnField w ∉ [0x07#8, 0x0A#8, 0x15#8, 0x18#8, 0x1E#8, 0x29#8, 0x33#8, 0x55#8, 0x65#8])) ∧
    (∀ i, decodeWord w = some i → i.row ∈ opcodeTable ∧ i.row.matchesWord w = true)

/-! ## The Step -/

/-- A STEP RUNS THE DECODED INSTRUCTION (30_encoding.md section 2). When no Fx0A is suspended and the two bytes at PC are
a word that decodes to `i`, the step is `exec i` on the same state, with the environment's side moved on: the byte of
the scripted Step, or a fresh free byte where nothing is scripted (model's choice, log entries 1 and 2). -/
def Obligations.StepRunsTheDecodedInstruction : Prop :=
  ∀ (s : State) (w : Word) (i : Instr), Fetches s w → decodeWord w = some i →
    (∀ rnd rest, s.env.script = .step rnd :: rest →
      step s = exec i { s with env := { s.env with rnd := rnd, script := rest } }) ∧
    (s.env.script = [] →
      step s = exec i
        { s with env := { s.env with rnd := Config.randomByte s.env.draws, draws := s.env.draws + 1 } })

/-- `Step(rnd)` (R64): a suspended Fx0A is continued first, whatever PC holds (`resumeWait` is R143); then a PC whose
second byte is above 4095 raises MemoryOutOfBounds; then a word that matches no pattern raises UnimplementedInstruction
with that word; a word that matches one is executed with `rnd` as its side input; and a Step that raises leaves the
whole state as it was. -/
def Obligations.StepChecksInOrder : Prop :=
  ∀ (s : State) (rnd : Byte),
    (s.wait = true → stepWith rnd s = .next (resumeWait s)) ∧
    (s.wait = false → 4095 < s.pc.toNat + 1 → stepWith rnd s = .fault .memoryOutOfBounds) ∧
    (∀ w, Fetches s w → decodeWord w = none → stepWith rnd s = .fault (.unimplementedInstruction w)) ∧
    (∀ w i, Fetches s w → decodeWord w = some i → stepWith rnd s = exec i (s.supplyRnd rnd)) ∧
    (∀ f, stepWith rnd s = .fault f → (perform (.step rnd) s).1 = s)

/-- A scripted operation of the driver is performed by the step that reaches it, between two Steps and never inside one
(00_scope.md section 3; the script is the model's choice, log entry 2). -/
def Obligations.ScriptedOperationIsPerformed : Prop :=
  ∀ (s : State) (d : DriverOp) (rest : List Operation), s.env.script = .driver d :: rest →
    step s = .next (perform (.driver d) { s with env := { s.env with script := rest } }).1

/-! ## Control transfer -/

/-- 0nnn raises UnimplementedInstruction with the whole opcode, always, and every word with op = 0 but 0x00E0 and 0x00EE
is that instruction (40_flow.md, 0nnn; the spec's decisions D2 and D3). -/
def Obligations.SysRaisesUnimplementedInstruction : Prop :=
  (∀ w : Word, w &&& 0xF000#16 = 0x0000#16 → w ≠ 0x00E0#16 → w ≠ 0x00EE#16 →
    decodeWord w = some (.sys (nnnField w)) ∧
    ∀ s : State, exec (.sys (nnnField w)) s = .fault (.unimplementedInstruction w)) ∧
  ∀ (nnn : Imm12) (s : State), ∃ w : Word,
    w.toNat = nnn.toNat ∧ exec (.sys nnn) s = .fault (.unimplementedInstruction w)

/-- 00EE raises StackUnderflow on an empty stack, and otherwise pops the top entry and goes on two bytes past it; the
entry keeps its value (40_flow.md, 00EE; the effect is the spec's decision D5, the stale entry D28). -/
def Obligations.ReturnGoesOnAfterTheCall : Prop :=
  Encoded 0xFFFF#16 0x00EE#16 (fun _ => .ret) ∧
  ∀ s : State,
    (s.sp.val = 0 → exec .ret s = .fault .stackUnderflow) ∧
    (∀ k : Reg, s.sp.val = k.val + 1 → ∃ t, exec .ret s = .next t ∧
      t.sp.val = k.val ∧ t.pc.toNat = ((s.stackAt k).toNat + 2) % 65536 ∧
      OnlyChanges (fun p => p = .pc ∨ p = .sp) s t)

/-- 1nnn (R82): `PC <- nnn` for every nnn, odd, below 0x200 or 0xFFF included, and nothing but PC changes. -/
def Obligations.JumpSetsPc : Prop :=
  Encoded 0xF000#16 0x1000#16 (fun w => .jp (nnnField w)) ∧
  ∀ (nnn : Imm12) (s : State), ∃ t, exec (.jp nnn) s = .next t ∧
    t.pc.toNat = nnn.toNat ∧ OnlyChanges (fun p => p = .pc) s t

/-- 2nnn (R83): the address of the call itself goes to the slot SP, SP goes up, `PC <- nnn`; with SP = 16 it raises
StackOverflow. -/
def Obligations.CallPushesItsOwnAddress : Prop :=
  Encoded 0xF000#16 0x2000#16 (fun w => .call (nnnField w)) ∧
  ∀ (nnn : Imm12) (s : State),
    (s.sp.val = 16 → exec (.call nnn) s = .fault .stackOverflow) ∧
    (∀ k : Reg, s.sp.val = k.val → ∃ t, exec (.call nnn) s = .next t ∧
      t.stackAt k = s.pc ∧ t.sp.val = s.sp.val + 1 ∧ t.pc.toNat = nnn.toNat ∧
      OnlyChanges (fun p => p = .pc ∨ p = .sp ∨ p = .stack k) s t)

/-- Bnnn: `PC <- nnn + V[0]`, at most 0x10FE and not reduced to 12 bits; the register is always V[0]
(40_flow.md, Bnnn; the unmasked sum is the spec's decision D10). -/
def Obligations.JumpV0AddsV0 : Prop :=
  Encoded 0xF000#16 0xB000#16 (fun w => .jpV0 (nnnField w)) ∧
  ∀ (nnn : Imm12) (s : State), ∃ t, exec (.jpV0 nnn) s = .next t ∧
    t.pc.toNat = nnn.toNat + (s.readV 0).toNat ∧ t.pc.toNat ≤ 0x10FE ∧ OnlyChanges (fun p => p = .pc) s t

/-- A return that finds the stack as a call left it comes back to two bytes past the call with the SP the call found,
whatever happened between (40_flow.md, 2nnn and 00EE together; decision D5). -/
def Obligations.ReturnUndoesCall : Prop :=
  ∀ (nnn : Imm12) (s : State), s.sp.val < 16 → ∃ t, exec (.call nnn) s = .next t ∧
    ∀ t' : State, t'.sp = t.sp → (∀ k : Reg, k.val < t.sp.val → t'.stackAt k = t.stackAt k) →
      ∃ u, exec .ret t' = .next u ∧ u.sp = s.sp ∧ u.pc.toNat = (s.pc.toNat + 2) % 65536

/-! ## Skips -/

/-- 3xnn, 4xnn, 5xy0, 9xy0 (R90 to R93): PC + 4 on match or mismatch per their polarity, PC + 2 otherwise, and nothing
but PC changes. -/
def Obligations.SkipsMoveByFourOrTwo : Prop :=
  (Encoded 0xF000#16 0x3000#16 (fun w => .seImm (xField w) (nnField w)) ∧
    Encoded 0xF000#16 0x4000#16 (fun w => .sneImm (xField w) (nnField w)) ∧
    Encoded 0xF00F#16 0x5000#16 (fun w => .seReg (xField w) (yField w)) ∧
    Encoded 0xF00F#16 0x9000#16 (fun w => .sneReg (xField w) (yField w))) ∧
  ∀ (x y : Reg) (nn : Byte) (s : State),
    (∃ t, exec (.seImm x nn) s = .next t ∧ OnlyChanges (fun p => p = .pc) s t ∧
      t.pc.toNat = (s.pc.toNat + if (s.readV x).toNat = nn.toNat then 4 else 2) % 65536) ∧
    (∃ t, exec (.sneImm x nn) s = .next t ∧ OnlyChanges (fun p => p = .pc) s t ∧
      t.pc.toNat = (s.pc.toNat + if (s.readV x).toNat = nn.toNat then 2 else 4) % 65536) ∧
    (∃ t, exec (.seReg x y) s = .next t ∧ OnlyChanges (fun p => p = .pc) s t ∧
      t.pc.toNat = (s.pc.toNat + if (s.readV x).toNat = (s.readV y).toNat then 4 else 2) % 65536) ∧
    (∃ t, exec (.sneReg x y) s = .next t ∧ OnlyChanges (fun p => p = .pc) s t ∧
      t.pc.toNat = (s.pc.toNat + if (s.readV x).toNat = (s.readV y).toNat then 2 else 4) % 65536)

/-! ## Arithmetic -/

/-- 6xnn, 7xnn, 8xy0 (R100, R101, R102): load, add modulo 256 with no flag, copy; only V[x] and PC change, VF too unless
x is 0xF. -/
def Obligations.LoadAddAndCopy : Prop :=
  (Encoded 0xF000#16 0x6000#16 (fun w => .ldImm (xField w) (nnField w)) ∧
    Encoded 0xF000#16 0x7000#16 (fun w => .addImm (xField w) (nnField w)) ∧
    Encoded 0xF00F#16 0x8000#16 (fun w => .ldReg (xField w) (yField w))) ∧
  ∀ (x y : Reg) (nn : Byte) (s : State),
    (∃ t, exec (.ldImm x nn) s = .next t ∧ t.readV x = nn ∧ t.pc.toNat = (s.pc.toNat + 2) % 65536 ∧
      OnlyChanges (fun p => p = .pc ∨ p = .v x) s t) ∧
    (∃ t, exec (.addImm x nn) s = .next t ∧ (t.readV x).toNat = ((s.readV x).toNat + nn.toNat) % 256 ∧
      t.pc.toNat = (s.pc.toNat + 2) % 65536 ∧ OnlyChanges (fun p => p = .pc ∨ p = .v x) s t) ∧
    (∃ t, exec (.ldReg x y) s = .next t ∧ t.readV x = s.readV y ∧ t.pc.toNat = (s.pc.toNat + 2) % 65536 ∧
      OnlyChanges (fun p => p = .pc ∨ p = .v x) s t)

/-- 8xy1, 8xy2, 8xy3 (R103, R104, R105): bit by bit or, and, exclusive or; VF is not touched unless x is 0xF. -/
def Obligations.LogicIsBitwise : Prop :=
  (Encoded 0xF00F#16 0x8001#16 (fun w => .or (xField w) (yField w)) ∧
    Encoded 0xF00F#16 0x8002#16 (fun w => .and (xField w) (yField w)) ∧
    Encoded 0xF00F#16 0x8003#16 (fun w => .xor (xField w) (yField w))) ∧
  ∀ (x y : Reg) (s : State),
    (∃ t, exec (.or x y) s = .next t ∧ t.pc.toNat = (s.pc.toNat + 2) % 65536 ∧
      (∀ b < 8, (t.readV x).getLsbD b = ((s.readV x).getLsbD b || (s.readV y).getLsbD b)) ∧
      OnlyChanges (fun p => p = .pc ∨ p = .v x) s t) ∧
    (∃ t, exec (.and x y) s = .next t ∧ t.pc.toNat = (s.pc.toNat + 2) % 65536 ∧
      (∀ b < 8, (t.readV x).getLsbD b = ((s.readV x).getLsbD b && (s.readV y).getLsbD b)) ∧
      OnlyChanges (fun p => p = .pc ∨ p = .v x) s t) ∧
    (∃ t, exec (.xor x y) s = .next t ∧ t.pc.toNat = (s.pc.toNat + 2) % 65536 ∧
      (∀ b < 8, (t.readV x).getLsbD b = ((s.readV x).getLsbD b ^^ (s.readV y).getLsbD b)) ∧
      OnlyChanges (fun p => p = .pc ∨ p = .v x) s t)

/-- 8xy4: VF is 1 exactly if the unbounded sum exceeds 255, V[x] the sum modulo 256. The outcomes for x or y equal to
0xF are the sequential reading, the spec's decision D6 (42_alu.md, 8xy4). -/
def Obligations.AddSetsCarry : Prop :=
  Encoded 0xF00F#16 0x8004#16 (fun w => .addReg (xField w) (yField w)) ∧
  ∀ (x y : Reg) (s : State) (a b f : Nat), a = (s.readV x).toNat → b = (s.readV y).toNat →
    f = (if a + b > 255 then 1 else 0) →
    ∃ t, exec (.addReg x y) s = .next t ∧ t.pc.toNat = (s.pc.toNat + 2) % 65536 ∧
      OnlyChanges (fun p => p = .pc ∨ p = .v x ∨ p = .v regF) s t ∧
      (x ≠ regF → (t.readV regF).toNat = f) ∧
      (x ≠ regF → y ≠ regF → (t.readV x).toNat = (a + b) % 256) ∧
      (x ≠ regF → y = regF → (t.readV x).toNat = (a + f) % 256) ∧
      (x = regF → y ≠ regF → (t.readV x).toNat = (f + b) % 256) ∧
      (x = regF → y = regF → (t.readV x).toNat = 2 * f)

/-- 8xy5: VF is 1 exactly if V[x] > V[y], strictly, V[x] the difference modulo 256. The outcomes for x or y equal to 0xF
are the sequential reading, the spec's decision D6 (42_alu.md, 8xy5). -/
def Obligations.SubtractSetsGreater : Prop :=
  Encoded 0xF00F#16 0x8005#16 (fun w => .sub (xField w) (yField w)) ∧
  ∀ (x y : Reg) (s : State) (a b f : Nat), a = (s.readV x).toNat → b = (s.readV y).toNat →
    f = (if a > b then 1 else 0) →
    ∃ t, exec (.sub x y) s = .next t ∧ t.pc.toNat = (s.pc.toNat + 2) % 65536 ∧
      OnlyChanges (fun p => p = .pc ∨ p = .v x ∨ p = .v regF) s t ∧
      (x ≠ regF → (t.readV regF).toNat = f) ∧
      (x ≠ regF → y ≠ regF → (t.readV x).toNat = (a + 256 - b) % 256) ∧
      (x ≠ regF → y = regF → (t.readV x).toNat = (a + 256 - f) % 256) ∧
      (x = regF → y ≠ regF → (t.readV x).toNat = (f + 256 - b) % 256) ∧
      (x = y → (t.readV x).toNat = 0 ∧ (t.readV regF).toNat = 0)

/-- 8xy7: VF is 1 exactly if V[y] > V[x], strictly, V[x] the difference V[y] - V[x] modulo 256. The outcomes for x or y
equal to 0xF are the sequential reading, the spec's decision D6 (42_alu.md, 8xy7). -/
def Obligations.ReverseSubtractSetsGreater : Prop :=
  Encoded 0xF00F#16 0x8007#16 (fun w => .subn (xField w) (yField w)) ∧
  ∀ (x y : Reg) (s : State) (a b f : Nat), a = (s.readV x).toNat → b = (s.readV y).toNat →
    f = (if b > a then 1 else 0) →
    ∃ t, exec (.subn x y) s = .next t ∧ t.pc.toNat = (s.pc.toNat + 2) % 65536 ∧
      OnlyChanges (fun p => p = .pc ∨ p = .v x ∨ p = .v regF) s t ∧
      (x ≠ regF → (t.readV regF).toNat = f) ∧
      (x ≠ regF → y ≠ regF → (t.readV x).toNat = (b + 256 - a) % 256) ∧
      (x ≠ regF → y = regF → (t.readV x).toNat = (f + 256 - a) % 256) ∧
      (x = regF → y ≠ regF → (t.readV x).toNat = (b + 256 - f) % 256) ∧
      (x = y → (t.readV x).toNat = 0 ∧ (t.readV regF).toNat = 0)

/-- 8xy6: V[y] and V[x] become V[y] shifted right by one, VF the bit shifted out. The outcomes for x or y equal to 0xF
are the sequential reading (D6); that V[y] is the source is SHIFT_SOURCE_VY = true (D23) (42_alu.md, 8xy6). -/
def Obligations.ShiftRightShiftsVy : Prop :=
  Encoded 0xF00F#16 0x8006#16 (fun w => .shr (xField w) (yField w)) ∧
  ∀ (x y : Reg) (s : State) (b : Nat), b = (s.readV y).toNat →
    ∃ t, exec (.shr x y) s = .next t ∧ t.pc.toNat = (s.pc.toNat + 2) % 65536 ∧
      OnlyChanges (fun p => p = .pc ∨ p = .v x ∨ p = .v y ∨ p = .v regF) s t ∧
      (x ≠ regF → y ≠ regF →
        (t.readV x).toNat = b / 2 ∧ (t.readV y).toNat = b / 2 ∧ (t.readV regF).toNat = b % 2) ∧
      (x = regF → y ≠ regF → (t.readV y).toNat = b / 2 ∧ (t.readV regF).toNat = b / 2) ∧
      (y = regF → (t.readV x).toNat = 0 ∧ (t.readV regF).toNat = 0)

/-- 8xyE: V[y] and V[x] become V[y] shifted left by one modulo 256, VF bit 7 as 0 or 1. The outcomes for x or y equal to
0xF are the sequential reading (D6); that V[y] is the source is SHIFT_SOURCE_VY = true (D23) (42_alu.md, 8xyE). -/
def Obligations.ShiftLeftShiftsVy : Prop :=
  Encoded 0xF00F#16 0x800E#16 (fun w => .shl (xField w) (yField w)) ∧
  ∀ (x y : Reg) (s : State) (b : Nat), b = (s.readV y).toNat →
    ∃ t, exec (.shl x y) s = .next t ∧ t.pc.toNat = (s.pc.toNat + 2) % 65536 ∧
      OnlyChanges (fun p => p = .pc ∨ p = .v x ∨ p = .v y ∨ p = .v regF) s t ∧
      (x ≠ regF → y ≠ regF →
        (t.readV x).toNat = 2 * b % 256 ∧ (t.readV y).toNat = 2 * b % 256 ∧ (t.readV regF).toNat = b / 128) ∧
      (x = regF → y ≠ regF → (t.readV y).toNat = 2 * b % 256 ∧ (t.readV regF).toNat = 2 * b % 256) ∧
      (y = regF → (t.readV x).toNat = 2 * (b / 128) ∧ (t.readV regF).toNat = 2 * (b / 128))

/-- Cxnn: V[x] is the side input and nn, whatever the byte; a Step that fetches it uses the byte the Step was given
(42_alu.md, Cxnn; the byte is a free input by the spec's decision D24, log entry 1). -/
def Obligations.RandomIsMaskedSideInput : Prop :=
  Encoded 0xF000#16 0xC000#16 (fun w => .rnd (xField w) (nnField w)) ∧
  (∀ (x : Reg) (nn : Byte) (s : State), ∃ t, exec (.rnd x nn) s = .next t ∧
    (∀ b < 8, (t.readV x).getLsbD b = (s.env.rnd.getLsbD b && nn.getLsbD b)) ∧ (t.readV x).toNat ≤ nn.toNat ∧
    t.pc.toNat = (s.pc.toNat + 2) % 65536 ∧ OnlyChanges (fun p => p = .pc ∨ p = .v x) s t) ∧
  (∀ (s : State) (w : Word) (rnd : Byte), Fetches s w → w &&& 0xF000#16 = 0xC000#16 →
    ∃ t, stepWith rnd s = .next t ∧ t.readV (xField w) = rnd &&& nnField w)

/-! ## Index and memory -/

/-- Annn (R120): `I <- nnn`, no memory access. -/
def Obligations.LoadIndexSetsI : Prop :=
  Encoded 0xF000#16 0xA000#16 (fun w => .ldI (nnnField w)) ∧
  ∀ (nnn : Imm12) (s : State), ∃ t, exec (.ldI nnn) s = .next t ∧
    t.i.toNat = nnn.toNat ∧ t.pc.toNat = (s.pc.toNat + 2) % 65536 ∧
    OnlyChanges (fun p => p = .pc ∨ p = .i) s t

/-- Fx1E: `I <- (I + V[x]) mod 65536`, VF untouched, no bound check (43_index_memory.md, Fx1E; the 16-bit wrap is the
spec's decision D11). -/
def Obligations.AddToIndexWrapsAt16Bits : Prop :=
  Encoded 0xF0FF#16 0xF01E#16 (fun w => .addI (xField w)) ∧
  ∀ (x : Reg) (s : State), ∃ t, exec (.addI x) s = .next t ∧
    t.i.toNat = (s.i.toNat + (s.readV x).toNat) % 65536 ∧ t.pc.toNat = (s.pc.toNat + 2) % 65536 ∧
    OnlyChanges (fun p => p = .pc ∨ p = .i) s t

/-- Fx29: I becomes five times the low nibble of V[x], without a memory access (43_index_memory.md, Fx29; FONT_BASE =
0x000 is the spec's decision D16). -/
def Obligations.FontAddressOfLowNibble : Prop :=
  Encoded 0xF0FF#16 0xF029#16 (fun w => .ldF (xField w)) ∧
  ∀ (x : Reg) (s : State), ∃ t, exec (.ldF x) s = .next t ∧
    t.i.toNat = 5 * ((s.readV x).toNat % 16) ∧ t.pc.toNat = (s.pc.toNat + 2) % 65536 ∧
    OnlyChanges (fun p => p = .pc ∨ p = .i) s t

/-- Fx33: hundreds, tens, units to I, I + 1, I + 2, one digit a byte; MemoryOutOfBounds and nothing written when I + 2
passes 4095 (43_index_memory.md, Fx33; decisions D12 and D31). Memory is in its canonical form, which every step
keeps. -/
def Obligations.DecimalStoreWritesThreeDigits : Prop :=
  Encoded 0xF0FF#16 0xF033#16 (fun w => .ldB (xField w)) ∧
  ∀ (x : Reg) (s : State) (v : Nat), Memory.wf s.mem = true → v = (s.readV x).toNat →
    (4095 < s.i.toNat + 2 → exec (.ldB x) s = .fault .memoryOutOfBounds) ∧
    (s.i.toNat + 2 ≤ 4095 → ∃ t, exec (.ldB x) s = .next t ∧
      (t.byteAt s.indexAddr).toNat = v / 100 ∧ (t.byteAt (s.indexAddr + 1)).toNat = v / 10 % 10 ∧
      (t.byteAt (s.indexAddr + 2)).toNat = v % 10 ∧ t.pc.toNat = (s.pc.toNat + 2) % 65536 ∧
      OnlyChanges (fun p => p = .pc ∨ ∃ k < 3, p = .mem (s.indexAddr + k)) s t)

/-- Fx55 (R124): V[0] to V[x] go to I to I + x, I and every register unchanged; MemoryOutOfBounds exactly if I + x passes
4095. Memory is in its canonical form, which every step keeps. -/
def Obligations.StoreRegistersUpToVx : Prop :=
  Encoded 0xF0FF#16 0xF055#16 (fun w => .ldMemVx (xField w)) ∧
  ∀ (x : Reg) (s : State), Memory.wf s.mem = true →
    (4095 < s.i.toNat + x.val → exec (.ldMemVx x) s = .fault .memoryOutOfBounds) ∧
    (s.i.toNat + x.val ≤ 4095 → ∃ t, exec (.ldMemVx x) s = .next t ∧
      (∀ k : Reg, k.val ≤ x.val → t.byteAt (s.indexAddr + k.val) = s.readV k) ∧
      t.pc.toNat = (s.pc.toNat + 2) % 65536 ∧
      OnlyChanges (fun p => p = .pc ∨ ∃ k ≤ x.val, p = .mem (s.indexAddr + k)) s t)

/-- Fx65 (R125): V[0] to V[x] come from I to I + x, the registers above x, I and memory unchanged; MemoryOutOfBounds
exactly if I + x passes 4095. -/
def Obligations.LoadRegistersUpToVx : Prop :=
  Encoded 0xF0FF#16 0xF065#16 (fun w => .ldVxMem (xField w)) ∧
  ∀ (x : Reg) (s : State),
    (4095 < s.i.toNat + x.val → exec (.ldVxMem x) s = .fault .memoryOutOfBounds) ∧
    (s.i.toNat + x.val ≤ 4095 → ∃ t, exec (.ldVxMem x) s = .next t ∧
      (∀ k : Reg, k.val ≤ x.val → t.readV k = s.byteAt (s.indexAddr + k.val)) ∧
      t.pc.toNat = (s.pc.toNat + 2) % 65536 ∧
      OnlyChanges (fun p => p = .pc ∨ ∃ k : Reg, k.val ≤ x.val ∧ p = .v k) s t)

/-- Fx55 and a later Fx65 with the same I and x round-trip, whatever else changed between them but memory
(95_test_vectors.md S5, 43_index_memory.md, Fx55 and Fx65). -/
def Obligations.LoadAfterStoreRecoversRegisters : Prop :=
  ∀ (x : Reg) (s : State), Memory.wf s.mem = true → s.i.toNat + x.val ≤ 4095 →
    ∃ t, exec (.ldMemVx x) s = .next t ∧ t.i = s.i ∧
      ∀ t' : State, t'.mem = t.mem → t'.i = t.i →
        ∃ u, exec (.ldVxMem x) t' = .next u ∧ u.i = s.i ∧ ∀ k : Reg, k.val ≤ x.val → u.readV k = s.readV k

/-- A stored byte is the byte fetched: after Fx55, two neighbouring registers it stored are the word a Step at their
address fetches, high byte first (20_memory.md section 7, self-modifying code). -/
def Obligations.StoredBytesAreFetched : Prop :=
  ∀ (x j k : Reg) (s : State), Memory.wf s.mem = true → s.i.toNat + x.val ≤ 4095 → k.val = j.val + 1 → k.val ≤ x.val →
    ∃ t, exec (.ldMemVx x) s = .next t ∧
      ∀ u : State, u.mem = t.mem → u.wait = false → u.pc.toNat = s.i.toNat + j.val →
        ∃ w : Word, Fetches u w ∧ w.toNat = (s.readV j).toNat * 256 + (s.readV k).toNat

/-! ## Display -/

/-- 00E0: every pixel is 0 afterwards and nothing else changes but PC (44_display.md, 00E0; the effect is the spec's
decision D4, from general knowledge). -/
def Obligations.ClearDarkensEveryPixel : Prop :=
  Encoded 0xFFFF#16 0x00E0#16 (fun _ => .cls) ∧
  ∀ s : State, ∃ t, exec .cls s = .next t ∧ (∀ row col, t.pixel row col = false) ∧
    t.pc.toNat = (s.pc.toNat + 2) % 65536 ∧ OnlyChanges (fun p => p = .pc ∨ ∃ row col, p = .pixel row col) s t

/-- Dxyn: a pixel is flipped exactly if a lit bit of the sprite falls on it, bit 7 leftmost, each coordinate wrapped by
itself; VF is 1 exactly if one of those was lit; MemoryOutOfBounds exactly if n is at least 1 and I + n - 1 passes
4095 (44_display.md; orientation, bit order and the per-pixel wrap are the spec's decision D18). -/
def Obligations.DrawFlipsTheSpritesPixels : Prop :=
  Encoded 0xF000#16 0xD000#16 (fun w => .drw (xField w) (yField w) (nField w)) ∧
  ∀ (x y : Reg) (n : Nibble) (s : State) (hit : Fin 32 → Fin 64 → Prop),
    (∀ row col, hit row col ↔ ∃ r < n.toNat, ∃ c < 8, (s.byteAt (s.indexAddr + r)).getLsbD (7 - c) = true ∧
      row.val = ((s.readV y).toNat + r) % 32 ∧ col.val = ((s.readV x).toNat + c) % 64) →
    (1 ≤ n.toNat → 4095 < s.i.toNat + n.toNat - 1 → exec (.drw x y n) s = .fault .memoryOutOfBounds) ∧
    (n.toNat = 0 ∨ s.i.toNat + n.toNat - 1 ≤ 4095 → ∃ t, exec (.drw x y n) s = .next t ∧
      (∀ row col, hit row col → t.pixel row col = !s.pixel row col) ∧
      (∀ row col, ¬ hit row col → t.pixel row col = s.pixel row col) ∧
      ((∃ row col, hit row col ∧ s.pixel row col = true) → t.readV regF = 1#8) ∧
      ((¬ ∃ row col, hit row col ∧ s.pixel row col = true) → t.readV regF = 0#8) ∧
      t.pc.toNat = (s.pc.toNat + 2) % 65536 ∧
      OnlyChanges (fun p => p = .pc ∨ p = .v regF ∨ ∃ row col, p = .pixel row col) s t)

/-- Drawing the same sprite twice at the same place restores the framebuffer, and the second draw sets VF if the first
lit any pixel (44_display.md, Dxyn; decision D18). -/
def Obligations.DrawTwiceRestoresTheScreen : Prop :=
  ∀ (x y : Reg) (n : Nibble) (s : State), x ≠ regF → y ≠ regF → n.toNat = 0 ∨ s.i.toNat + n.toNat ≤ 4096 →
    ∃ t u, exec (.drw x y n) s = .next t ∧ exec (.drw x y n) t = .next u ∧
      (∀ row col, u.pixel row col = s.pixel row col) ∧
      ((∃ row col, s.pixel row col = false ∧ t.pixel row col = true) → u.readV regF = 1#8)

/-! ## Keys and timers -/

/-- Ex9E and ExA1 skip on the key of V[x]'s low nibble, pressed or not pressed, and change nothing but PC
(45_keys_timers.md, Ex9E and ExA1; the low nibble is the spec's decision D13). -/
def Obligations.KeySkipsTestTheLowNibble : Prop :=
  (Encoded 0xF0FF#16 0xE09E#16 (fun w => .skp (xField w)) ∧
    Encoded 0xF0FF#16 0xE0A1#16 (fun w => .sknp (xField w))) ∧
  ∀ (x k : Reg) (s : State), k.val = (s.readV x).toNat % 16 →
    (∃ t, exec (.skp x) s = .next t ∧ OnlyChanges (fun p => p = .pc) s t ∧
      t.pc.toNat = (s.pc.toNat + if s.key[k] = true then 4 else 2) % 65536) ∧
    (∃ t, exec (.sknp x) s = .next t ∧ OnlyChanges (fun p => p = .pc) s t ∧
      t.pc.toNat = (s.pc.toNat + if s.key[k] = true then 2 else 4) % 65536)

/-- Fx0A, the Step that fetches it: x and the keys are latched, WAIT is set, PC stays and V[x] is not written, held keys
or not (45_keys_timers.md, Fx0A; the mechanism is the spec's decision D14). -/
def Obligations.WaitForKeySuspends : Prop :=
  Encoded 0xF0FF#16 0xF00A#16 (fun w => .ldVxK (xField w)) ∧
  ∀ (x : Reg) (s : State), ∃ t, exec (.ldVxK x) s = .next t ∧
    t.wait = true ∧ t.waitx = x ∧ (∀ k : Reg, t.kprev[k] = s.key[k]) ∧
    OnlyChanges (fun p => p = .wait ∨ p = .waitx ∨ ∃ k, p = .kprev k) s t

/-- A Step with WAIT = 1: the lowest key that is down and was up at the last look completes the wait, its index to
V[WAITX], PC two bytes on; with no such key only KPREV is refreshed. It never raises (45_keys_timers.md, the
continuation of Fx0A; the mechanism and the lowest index are the spec's decision D14). -/
def Obligations.WaitingStepCompletesOnNewKey : Prop :=
  ∀ (s : State) (rnd : Byte), s.wait = true →
    (∀ k : Reg, s.key[k] = true → s.kprev[k] = false → (∀ j < k, s.key[j] = true → s.kprev[j] = true) →
      ∃ t, stepWith rnd s = .next t ∧ (t.readV s.waitx).toNat = k.val ∧ t.wait = false ∧
        t.pc.toNat = (s.pc.toNat + 2) % 65536 ∧
        OnlyChanges (fun p => p = .pc ∨ p = .wait ∨ p = .v s.waitx) s t) ∧
    ((∀ k : Reg, s.key[k] = true → s.kprev[k] = true) →
      ∃ t, stepWith rnd s = .next t ∧ (∀ k : Reg, t.kprev[k] = s.key[k]) ∧
        OnlyChanges (fun p => ∃ k, p = .kprev k) s t)

/-- Fx07, Fx15, Fx18 (R144, R145, R146): V[x] from DT, DT from V[x], ST from V[x], and nothing else but PC. -/
def Obligations.TimerInstructionsMoveBytes : Prop :=
  (Encoded 0xF0FF#16 0xF007#16 (fun w => .ldVxDt (xField w)) ∧
    Encoded 0xF0FF#16 0xF015#16 (fun w => .ldDtVx (xField w)) ∧
    Encoded 0xF0FF#16 0xF018#16 (fun w => .ldStVx (xField w))) ∧
  ∀ (x : Reg) (s : State),
    (∃ t, exec (.ldVxDt x) s = .next t ∧ t.readV x = s.dt ∧ t.pc.toNat = (s.pc.toNat + 2) % 65536 ∧
      OnlyChanges (fun p => p = .pc ∨ p = .v x) s t) ∧
    (∃ t, exec (.ldDtVx x) s = .next t ∧ t.dt = s.readV x ∧ t.pc.toNat = (s.pc.toNat + 2) % 65536 ∧
      OnlyChanges (fun p => p = .pc ∨ p = .dt) s t) ∧
    (∃ t, exec (.ldStVx x) s = .next t ∧ t.st = s.readV x ∧ t.pc.toNat = (s.pc.toNat + 2) % 65536 ∧
      OnlyChanges (fun p => p = .pc ∨ p = .st) s t)

/-! ## Errors -/

/-- R155: after a Step that returns an error every piece of state has exactly the value it had before the Step. -/
def Obligations.ErrorsLeaveTheStateUnchanged : Prop :=
  ∀ (s : State) (rnd : Byte) (f : Fault), stepWith rnd s = .fault f → perform (.step rnd) s = (s, .err f)

/-- The errors of the instructions, all of them: an instruction either goes on, or it is one of the seven that raise: SYS,
which always does, or 2nnn, 00EE, Fx33, Fx55, Fx65 or Dxyn, each only where its one condition holds (60_exceptions.md
sections 1 and 2; 20_memory.md section 6). No instruction is refused. -/
def Obligations.ErrorsAriseOnlyWhereTheSpecSays : Prop :=
  ∀ (i : Instr) (s : State),
    (∃ t, exec i s = .next t) ∨
    (∃ nnn, i = .sys nnn ∧ exec i s = .fault (.unimplementedInstruction (nnn.setWidth 16))) ∨
    (∃ nnn, i = .call nnn ∧ s.sp.val = 16 ∧ exec i s = .fault .stackOverflow) ∨
    (i = .ret ∧ s.sp.val = 0 ∧ exec i s = .fault .stackUnderflow) ∨
    (exec i s = .fault .memoryOutOfBounds ∧
      ((∃ x, i = .ldB x ∧ 4095 < s.i.toNat + 2) ∨
        (∃ x : Reg, (i = .ldMemVx x ∨ i = .ldVxMem x) ∧ 4095 < s.i.toNat + x.val) ∨
        (∃ (x y : Reg) (n : Nibble), i = .drw x y n ∧ 1 ≤ n.toNat ∧ 4095 < s.i.toNat + n.toNat - 1)))

/-- An error depends only on PC, MEM, SP, I and whether a wait is pending: two states that agree on these raise the same
error with the same info, whatever the side input, the keys and every register, so a repeated Step repeats its error
(60_exceptions.md section 2, no latched error). -/
def Obligations.ErrorsDependOnFewParts : Prop :=
  ∀ (s s' : State) (rnd rnd' : Byte) (f : Fault),
    s'.pc = s.pc → s'.mem = s.mem → s'.sp = s.sp → s'.i = s.i → s'.wait = s.wait →
    stepWith rnd s = .fault f → stepWith rnd' s' = .fault f

/-! ## What each part of the state is written by -/

/-- The column "Written by" of 10_state.md section 1, every row of it, for the instructions (the waiting Step of Fx0A and
the driver's operations have statements of their own): a part that an instruction changes is one the table names it
for, a register V[x] only one that is a destination of the instruction or its flag VF, and PC one of every instruction
but an Fx0A that suspends. In particular no instruction decrements a timer and none writes KEY. -/
def Obligations.EachPartHasItsWriters : Prop :=
  ∀ (i : Instr) (s t : State), exec i s = .next t →
    ((∃ a, t.byteAt a ≠ s.byteAt a) → ∃ x, i = .ldB x ∨ i = .ldMemVx x) ∧
    (∀ x : Reg, t.readV x ≠ s.readV x →
      (∃ nn, i = .ldImm x nn ∨ i = .addImm x nn ∨ i = .rnd x nn) ∨
      (∃ y, i = .ldReg x y ∨ i = .or x y ∨ i = .and x y ∨ i = .xor x y) ∨
      (∃ d y, (i = .addReg d y ∨ i = .sub d y ∨ i = .subn d y) ∧ (x = d ∨ x = regF)) ∨
      (∃ d y, (i = .shr d y ∨ i = .shl d y) ∧ (x = d ∨ x = y ∨ x = regF)) ∨
      (∃ a b n, i = .drw a b n ∧ x = regF) ∨
      i = .ldVxDt x ∨
      ∃ last : Reg, i = .ldVxMem last ∧ x.val ≤ last.val) ∧
    (t.i ≠ s.i → (∃ nnn, i = .ldI nnn) ∨ ∃ x, i = .addI x ∨ i = .ldF x) ∧
    (t.pc ≠ s.pc → ∀ x, i ≠ .ldVxK x) ∧
    ((∃ k, t.stackAt k ≠ s.stackAt k) → ∃ nnn, i = .call nnn) ∧
    (t.sp ≠ s.sp → i = .ret ∨ ∃ nnn, i = .call nnn) ∧
    (t.dt ≠ s.dt → ∃ x, i = .ldDtVx x) ∧
    (t.st ≠ s.st → ∃ x, i = .ldStVx x) ∧
    (t.fb ≠ s.fb → i = .cls ∨ ∃ x y n, i = .drw x y n) ∧
    (t.wait ≠ s.wait ∨ t.waitx ≠ s.waitx ∨ t.kprev ≠ s.kprev → ∃ x, i = .ldVxK x) ∧
    t.key = s.key ∧ t.env = s.env

/-- VF is written as a flag by exactly six instructions and as an ordinary destination by an instruction whose
destination field is 0xF; no other changes it (10_state.md section 2, the table of VF's writers). -/
def Obligations.FlagRegisterHasItsWriters : Prop :=
  ∀ (i : Instr) (s t : State), exec i s = .next t → t.readV regF ≠ s.readV regF →
    (∃ x y, i = .addReg x y ∨ i = .sub x y ∨ i = .shr x y ∨ i = .subn x y ∨ i = .shl x y) ∨
    (∃ x y n, i = .drw x y n) ∨
    (∃ nn, i = .ldImm regF nn ∨ i = .addImm regF nn ∨ i = .rnd regF nn) ∨
    (∃ y, i = .ldReg regF y ∨ i = .or regF y ∨ i = .and regF y ∨ i = .xor regF y) ∨
    i = .ldVxDt regF ∨ i = .ldVxMem regF

/-- R19: no instruction and no Step writes KEY; only SetKey and PowerOn do. -/
def Obligations.OnlySetKeyAndPowerOnWriteKeys : Prop :=
  ∀ (op : Operation) (s : State), (perform op s).1.key ≠ s.key →
    op = .driver .powerOn ∨ ∃ k down, op = .driver (.setKey k down)

/-- Only Cxnn reads the side input: every other instruction does the same whatever the byte (42_alu.md, Cxnn, decision
D24). -/
def Obligations.OnlyRandomReadsTheSideInput : Prop :=
  ∀ (i : Instr) (s : State) (rnd : Byte), (∀ x nn, i ≠ .rnd x nn) →
    (∀ t, exec i s = .next t → exec i (s.supplyRnd rnd) = .next (t.supplyRnd rnd)) ∧
    (∀ f, exec i s = .fault f → exec i (s.supplyRnd rnd) = .fault f)

/-- While no wait is pending the latch WAITX and KPREV is dead: two states that differ only there take the same Step to
states that differ only there, and to the same state once the latch is live (10_state.md section 2, the key-wait latch;
decision D30). -/
def Obligations.IdleKeyLatchIsDead : Prop :=
  ∀ (s : State) (x : Reg) (kp : Vector Bool 16) (rnd : Byte), s.wait = false →
    (∀ f, stepWith rnd s = .fault f → stepWith rnd { s with waitx := x, kprev := kp } = .fault f) ∧
    (∀ t, stepWith rnd s = .next t → ∃ t', stepWith rnd { s with waitx := x, kprev := kp } = .next t' ∧
      t' = { t with waitx := t'.waitx, kprev := t'.kprev } ∧ (t.wait = true → t' = t))

/-! ## The environment's operations -/

/-- R161: TickTimers takes one from each timer that is above 0, both at once, never fails and changes nothing else; and
no Step counts a timer down: one that changes DT fetched an Fx15, one that changes ST an Fx18. -/
def Obligations.TickTakesOneFromEachTimer : Prop :=
  (∀ s : State, ∃ t, perform (.driver .tickTimers) s = (t, .ok) ∧
    t.dt.toNat = s.dt.toNat - 1 ∧ t.st.toNat = s.st.toNat - 1 ∧
    OnlyChanges (fun p => p = .dt ∨ p = .st) s t) ∧
  ∀ (s t : State) (rnd : Byte), stepWith rnd s = .next t →
    (t.dt ≠ s.dt → ∃ w, Fetches s w ∧ w &&& 0xF0FF#16 = 0xF015#16) ∧
    (t.st ≠ s.st → ∃ w, Fetches s w ∧ w &&& 0xF0FF#16 = 0xF018#16)

/-- A timer loaded with v reaches 0 after exactly v ticks and stays 0 (60_exceptions.md section 4). -/
def Obligations.TimerReachesZeroAndStays : Prop :=
  ∀ (s : State) (n : Nat),
    (performAll (List.replicate n (.driver .tickTimers)) s).dt.toNat = s.dt.toNat - n ∧
    (performAll (List.replicate n (.driver .tickTimers)) s).st.toNat = s.st.toNat - n

/-- R164: SetKey writes the one key and changes nothing else, WAIT, KPREV and every register included; the core only
reads the keys: a Step leaves every key as it is, whatever it answers. -/
def Obligations.SetKeyWritesOneKey : Prop :=
  (∀ (k : Reg) (down : Bool) (s : State), ∃ t, perform (.driver (.setKey k down)) s = (t, .ok) ∧
    t.key[k] = down ∧ OnlyChanges (fun p => p = .key k) s t) ∧
  ∀ (rnd : Byte) (s : State) (k : Reg), (perform (.step rnd) s).1.key[k] = s.key[k]

/-- PowerOn makes every piece of state zero but PC = 0x200, and `State.reset` is that state (10_state.md section 3; the
values of FB, WAIT, WAITX and KPREV are the spec's decisions D17 and D21). -/
def Obligations.PowerOnZeroesAllButPc : Prop :=
  ∀ s : State, ∃ t, perform (.driver .powerOn) s = (t, .ok) ∧ SameCore State.reset t ∧
    t.pc = 0x200#16 ∧ (∀ a, t.byteAt a = 0#8) ∧ (∀ x, t.readV x = 0#8) ∧ t.i = 0#16 ∧
    (∀ k, t.stackAt k = 0#16) ∧ t.sp.val = 0 ∧ t.dt = 0#8 ∧ t.st = 0#8 ∧ (∀ k : Reg, t.key[k] = false) ∧
    (∀ row col, t.pixel row col = false) ∧ t.wait = false ∧ t.waitx = 0 ∧ (∀ k : Reg, t.kprev[k] = false)

/-- Init sets PC, I, SP and WAIT and keeps everything else (10_state.md section 3; clearing WAIT is the spec's decision
D21). -/
def Obligations.InitResetsFourRegisters : Prop :=
  ∀ s : State, ∃ t, perform (.driver .init) s = (t, .ok) ∧
    t.pc = 0x200#16 ∧ t.i = 0#16 ∧ t.sp.val = 0 ∧ t.wait = false ∧
    OnlyChanges (fun p => p = .pc ∨ p = .i ∨ p = .sp ∨ p = .wait) s t

/-- Load writes its bytes at 0x200 and on, or, past 0xFFF, answers LoadTooLarge and writes nothing
(70_reset_and_hazards.md section 1; the failing Load is the spec's decision D22). -/
def Obligations.LoadWritesTheProgram : Prop :=
  ∀ (bytes : List Byte) (s : State), Memory.wf s.mem = true →
    (0x1000 < 0x200 + bytes.length → perform (.driver (.load bytes)) s = (s, .loadTooLarge)) ∧
    (0x200 + bytes.length ≤ 0x1000 → ∃ t, perform (.driver (.load bytes)) s = (t, .ok) ∧
      (∀ k < bytes.length, t.byteAt (0x200 + k) = bytes.getD k 0#8) ∧
      OnlyChanges (fun p => ∃ k < bytes.length, p = .mem (0x200 + k)) s t)

/-- LoadFont writes the 80 bytes of the table at 0x000 to 0x04F and nothing else (70_reset_and_hazards.md section 1; the
bytes are from general knowledge, as the spec marks them, decision D16). -/
def Obligations.LoadFontWritesTheTable : Prop :=
  ∀ s : State, Memory.wf s.mem = true → ∃ t, perform (.driver .loadFont) s = (t, .ok) ∧
    (List.range 40).map (fun a => (t.byteAt a).toNat) =
      [0xF0, 0x90, 0x90, 0x90, 0xF0] ++ [0x20, 0x60, 0x20, 0x20, 0x70] ++ [0xF0, 0x10, 0xF0, 0x80, 0xF0] ++
      [0xF0, 0x10, 0xF0, 0x10, 0xF0] ++ [0x90, 0x90, 0xF0, 0x10, 0x10] ++ [0xF0, 0x80, 0xF0, 0x10, 0xF0] ++
      [0xF0, 0x80, 0xF0, 0x90, 0xF0] ++ [0xF0, 0x10, 0x20, 0x40, 0x40] ∧
    (List.range 40).map (fun a => (t.byteAt (40 + a)).toNat) =
      [0xF0, 0x90, 0xF0, 0x90, 0xF0] ++ [0xF0, 0x90, 0xF0, 0x10, 0xF0] ++ [0xF0, 0x90, 0xF0, 0x90, 0x90] ++
      [0xE0, 0x90, 0xE0, 0x90, 0xE0] ++ [0xF0, 0x80, 0x80, 0x80, 0xF0] ++ [0xE0, 0x90, 0x90, 0x90, 0xE0] ++
      [0xF0, 0x80, 0xF0, 0x80, 0xF0] ++ [0xF0, 0x80, 0xF0, 0x80, 0x80] ∧
    OnlyChanges (fun p => ∃ a < 80, p = .mem a) s t

/-- Observe shows FB, ST, ST > 0 as the sound signal, and WAIT, and changes nothing (60_exceptions.md section 5,
00_scope.md section 3). -/
def Obligations.ObserveShowsTheOutputs : Prop :=
  ∀ s : State, ∃ o, perform (.driver .observe) s = (s, .seen o) ∧
    (∀ (row : Fin 32) (col : Fin 64), o.fb[row][col] = s.pixel row col) ∧
    o.st = s.st ∧ (o.sound = true ↔ 0 < s.st.toNat) ∧ o.wait = s.wait

/-- The boot order PowerOn, LoadFont, Load, Init, from any state: the program at 0x200, the font at 0x000, every other
byte and every register zero, PC = 0x200 (70_reset_and_hazards.md section 1, boot order). -/
def Obligations.BootOrderEstablishesTheStart : Prop :=
  ∀ (program : List Byte) (s t : State), 0x200 + program.length ≤ 0x1000 →
    performAll [.driver .powerOn, .driver .loadFont, .driver (.load program), .driver .init] s = t →
    (∀ k < program.length, t.byteAt (0x200 + k) = program.getD k 0#8) ∧
    (∀ k < 80, t.byteAt k = fontTable.getD k 0#8) ∧
    (∀ a, 80 ≤ a → ¬ (0x200 ≤ a ∧ a < 0x200 + program.length) → t.byteAt a = 0#8) ∧
    (∀ x, t.readV x = 0#8) ∧ t.pc = 0x200#16 ∧ t.i = 0#16 ∧ t.sp.val = 0 ∧ t.dt = 0#8 ∧ t.st = 0#8 ∧
    t.wait = false ∧ (∀ row col, t.pixel row col = false)

/-- A jump to itself succeeds for ever: any number of Steps, whatever their side inputs, raise no error and change
nothing of the hardware's state (70_reset_and_hazards.md section 4). -/
def Obligations.SelfJumpChangesNothing : Prop :=
  ∀ (s : State) (w : Word) (rnds : List Byte), Fetches s w → w &&& 0xF000#16 = 0x1000#16 →
    (nnnField w).toNat = s.pc.toNat →
    SafeRun (rnds.map Operation.step) s ∧ SameCore s (performAll (rnds.map Operation.step) s)

/-! ## The invariant -/

/-- The invariant holds at reset (10_state.md sections 3 and 4). -/
def Obligations.ResetSatisfiesTheInvariant : Prop := Invariant State.reset

/-- THE INVARIANT IS KEPT by every step from every state that has it: memory in canonical form, PC at most 0x10FE, every
live stack entry the address of a fetched instruction, and PC fetchable while an Fx0A is suspended (10_state.md section
4; the last clause is what a suspended Fx0A adds, DEDUCED, log entry 5). -/
def Obligations.StepKeepsTheInvariant : Prop := ∀ s t : State, Invariant s → step s = .next t → Invariant t

/-- EVERY OPERATION OF THE BLOCK KEEPS THE INVARIANT, a Step with any side input or any of the driver's, whatever it
answers, from every state that has it; PowerOn's state has it; so it holds in every state any finite sequence of
operations reaches from PowerOn (10_state.md section 4). -/
def Obligations.ReachableStatesSatisfyTheInvariant : Prop :=
  (∀ (op : Operation) (s : State), Invariant s → Invariant (perform op s).1) ∧
  Invariant State.reset ∧
  ∀ t : State, Reachable t → Invariant t
end

