-- ==== Sys2Proof/Laws/Decode.lean ====
section
/-!
SUPPORT. The fields of an encoded word, the word made of its fields, what a masked match says of the fields, and that
the rows of the opcode table are disjoint but for CLS and RET inside SYS (30_encoding.md R61 to R65).
-/

namespace Sys2Proof

/-! ## Slices of a concatenation -/

theorem extract_append_high {a b s : Nat} (u : BitVec a) (v : BitVec b) (k : Nat) :
    (u ++ v).extractLsb' (b + s) k = u.extractLsb' s k := by
  apply BitVec.eq_of_getLsbD_eq
  intro i hi
  simp only [BitVec.getLsbD_extractLsb', BitVec.getLsbD_append]
  rw [if_neg (by omega), show b + s + i - b = s + i by omega]

theorem extract_append_low {a b s k : Nat} (u : BitVec a) (v : BitVec b) (h : s + k ≤ b) :
    (u ++ v).extractLsb' s k = v.extractLsb' s k := by
  apply BitVec.eq_of_getLsbD_eq
  intro i hi
  simp only [BitVec.getLsbD_extractLsb', BitVec.getLsbD_append]
  rw [if_pos (by omega)]

theorem extract_all {a : Nat} (u : BitVec a) : u.extractLsb' 0 a = u := by simp

theorem append_extract {a b : Nat} (w : Word) (s : Nat) :
    w.extractLsb' (s + b) a ++ w.extractLsb' s b = w.extractLsb' s (a + b) := by
  apply BitVec.eq_of_getLsbD_eq
  intro i hi
  simp only [BitVec.getLsbD_extractLsb', BitVec.getLsbD_append]
  by_cases h : i < b
  · simp [h]; omega
  · simp [h, hi, show i - b < a by omega, show s + b + (i - b) = s + i by omega]

/-! ## Fields of the three word shapes -/

section shapes
variable (op : Nibble) (x y : Reg) (n : Nibble) (nn : Byte) (nnn : Imm12)

@[simp] theorem opField_encodeNNN : opField (encodeNNN op nnn) = op :=
  (extract_append_high (s := 0) op nnn 4).trans (extract_all op)

@[simp] theorem nnnField_encodeNNN : nnnField (encodeNNN op nnn) = nnn :=
  (extract_append_low op nnn (by decide)).trans (extract_all nnn)

@[simp] theorem opField_encodeXNN : opField (encodeXNN op x nn) = op :=
  (extract_append_high (s := 4) (op ++ (BitVec.ofFin x : Nibble)) nn 4).trans
    ((extract_append_high (s := 0) op (BitVec.ofFin x : Nibble) 4).trans (extract_all op))

@[simp] theorem xField_encodeXNN : xField (encodeXNN op x nn) = x :=
  congrArg BitVec.toFin ((extract_append_high (s := 0) (op ++ (BitVec.ofFin x : Nibble)) nn 4).trans
    ((extract_append_low op (BitVec.ofFin x : Nibble) (by decide)).trans (extract_all _)))

@[simp] theorem nnField_encodeXNN : nnField (encodeXNN op x nn) = nn :=
  (extract_append_low (op ++ (BitVec.ofFin x : Nibble)) nn (by decide)).trans (extract_all nn)

@[simp] theorem opField_encodeXYN : opField (encodeXYN op x y n) = op :=
  (extract_append_high (s := 8) (op ++ (BitVec.ofFin x : Nibble) ++ (BitVec.ofFin y : Nibble)) n 4).trans
    ((extract_append_high (s := 4) (op ++ (BitVec.ofFin x : Nibble)) (BitVec.ofFin y : Nibble) 4).trans
      ((extract_append_high (s := 0) op (BitVec.ofFin x : Nibble) 4).trans (extract_all op)))

@[simp] theorem xField_encodeXYN : xField (encodeXYN op x y n) = x :=
  congrArg BitVec.toFin
    ((extract_append_high (s := 4) (op ++ (BitVec.ofFin x : Nibble) ++ (BitVec.ofFin y : Nibble)) n 4).trans
      ((extract_append_high (s := 0) (op ++ (BitVec.ofFin x : Nibble)) (BitVec.ofFin y : Nibble) 4).trans
        ((extract_append_low op (BitVec.ofFin x : Nibble) (by decide)).trans (extract_all _))))

@[simp] theorem yField_encodeXYN : yField (encodeXYN op x y n) = y :=
  congrArg BitVec.toFin
    ((extract_append_high (s := 0) (op ++ (BitVec.ofFin x : Nibble) ++ (BitVec.ofFin y : Nibble)) n 4).trans
      ((extract_append_low (op ++ (BitVec.ofFin x : Nibble)) (BitVec.ofFin y : Nibble) (by decide)).trans
        (extract_all _)))

@[simp] theorem nField_encodeXYN : nField (encodeXYN op x y n) = n :=
  (extract_append_low (op ++ (BitVec.ofFin x : Nibble) ++ (BitVec.ofFin y : Nibble)) n (by decide)).trans
    (extract_all n)

end shapes

/-! ## A word is made of its fields -/

theorem encodeNNN_fields (w : Word) : encodeNNN (opField w) (nnnField w) = w :=
  (append_extract (a := 4) (b := 12) w 0).trans (extract_all w)

theorem encodeXNN_fields (w : Word) : encodeXNN (opField w) (xField w) (nnField w) = w := by
  show (w.extractLsb' (8 + 4) 4 ++ w.extractLsb' 8 4) ++ w.extractLsb' 0 8 = w
  rw [append_extract (a := 4) (b := 4) w 8]
  exact (append_extract (a := 8) (b := 8) w 0).trans (extract_all w)

theorem encodeXYN_fields (w : Word) : encodeXYN (opField w) (xField w) (yField w) (nField w) = w := by
  show ((w.extractLsb' (8 + 4) 4 ++ w.extractLsb' 8 4) ++ w.extractLsb' 4 4) ++ w.extractLsb' 0 4 = w
  rw [append_extract (a := 4) (b := 4) w 8]
  show (w.extractLsb' (4 + 4) 8 ++ w.extractLsb' 4 4) ++ w.extractLsb' 0 4 = w
  rw [append_extract (a := 8) (b := 4) w 4]
  exact (append_extract (a := 12) (b := 4) w 0).trans (extract_all w)

/-- The two bytes of a word compose to the word again (R42). -/
@[simp] theorem composeWord_bytes (w : Word) : composeWord w.hiByte w.loByte = w :=
  (append_extract (a := 8) (b := 8) w 0).trans (extract_all w)

@[simp] theorem hiByte_compose (hi lo : Byte) : (composeWord hi lo).hiByte = hi :=
  (extract_append_high (s := 0) hi lo 8).trans (extract_all hi)

@[simp] theorem loByte_compose (hi lo : Byte) : (composeWord hi lo).loByte = lo :=
  (extract_append_low hi lo (by decide)).trans (extract_all lo)

/-- The composition is `MEM[PC] * 256 + MEM[PC+1]` (R42). -/
theorem composeWord_toNat (hi lo : Byte) : (composeWord hi lo).toNat = hi.toNat * 256 + lo.toNat := by
  have := lo.isLt
  rw [composeWord, BitVec.toNat_append, Nat.shiftLeft_eq, Nat.mul_comm, ← Nat.two_pow_add_eq_or_of_lt this]

/-! ## What a masked match says of the fields -/

theorem opField_of_mask {w p : Word} (h : w &&& 0xF000#16 = p) : opField w = p.extractLsb' 12 4 := by
  subst h
  simp only [opField, BitVec.extractLsb'_and]
  rw [show BitVec.extractLsb' 12 4 0xF000#16 = BitVec.allOnes 4 from rfl, BitVec.and_allOnes]

theorem fields_of_mask_XY {w p : Word} (h : w &&& 0xF00F#16 = p) :
    opField w = p.extractLsb' 12 4 ∧ nField w = p.extractLsb' 0 4 := by
  subst h
  simp only [opField, nField, BitVec.extractLsb'_and]
  rw [show BitVec.extractLsb' 12 4 0xF00F#16 = BitVec.allOnes 4 from rfl,
    show BitVec.extractLsb' 0 4 0xF00F#16 = BitVec.allOnes 4 from rfl, BitVec.and_allOnes, BitVec.and_allOnes]
  exact ⟨rfl, rfl⟩

theorem fields_of_mask_X {w p : Word} (h : w &&& 0xF0FF#16 = p) :
    opField w = p.extractLsb' 12 4 ∧ nnField w = p.extractLsb' 0 8 := by
  subst h
  simp only [opField, nnField, BitVec.extractLsb'_and]
  rw [show BitVec.extractLsb' 12 4 0xF0FF#16 = BitVec.allOnes 4 from rfl,
    show BitVec.extractLsb' 0 8 0xF0FF#16 = BitVec.allOnes 8 from rfl, BitVec.and_allOnes, BitVec.and_allOnes]
  exact ⟨rfl, rfl⟩

/-! ## Masks of the three word shapes -/

theorem encodeNNN_mask (op : Nibble) (nnn : Imm12) :
    encodeNNN op nnn &&& 0xF000#16 = op ++ 0#12 := by
  rw [show 0xF000#16 = BitVec.allOnes 4 ++ 0#12 from rfl, encodeNNN, BitVec.and_append, BitVec.and_allOnes,
    BitVec.and_zero]

theorem encodeXNN_mask (op : Nibble) (x : Reg) (nn : Byte) :
    encodeXNN op x nn &&& 0xF000#16 = op ++ 0#4 ++ 0#8 := by
  rw [show 0xF000#16 = BitVec.allOnes 4 ++ 0#4 ++ 0#8 from rfl, encodeXNN, BitVec.and_append, BitVec.and_append,
    BitVec.and_allOnes, BitVec.and_zero, BitVec.and_zero]

theorem encodeXNN_mask_low (op : Nibble) (x : Reg) (nn : Byte) :
    encodeXNN op x nn &&& 0xF0FF#16 = op ++ 0#4 ++ nn := by
  rw [show 0xF0FF#16 = BitVec.allOnes 4 ++ 0#4 ++ BitVec.allOnes 8 from rfl, encodeXNN, BitVec.and_append,
    BitVec.and_append, BitVec.and_allOnes, BitVec.and_allOnes, BitVec.and_zero]

theorem encodeXYN_mask (op : Nibble) (x y : Reg) (n : Nibble) :
    encodeXYN op x y n &&& 0xF000#16 = op ++ 0#4 ++ 0#4 ++ 0#4 := by
  rw [show 0xF000#16 = BitVec.allOnes 4 ++ 0#4 ++ 0#4 ++ 0#4 from rfl, encodeXYN, BitVec.and_append,
    BitVec.and_append, BitVec.and_append, BitVec.and_allOnes, BitVec.and_zero, BitVec.and_zero, BitVec.and_zero]

theorem encodeXYN_mask_low (op : Nibble) (x y : Reg) (n : Nibble) :
    encodeXYN op x y n &&& 0xF00F#16 = op ++ 0#4 ++ 0#4 ++ n := by
  rw [show 0xF00F#16 = BitVec.allOnes 4 ++ 0#4 ++ 0#4 ++ BitVec.allOnes 4 from rfl, encodeXYN, BitVec.and_append,
    BitVec.and_append, BitVec.and_append, BitVec.and_allOnes, BitVec.and_allOnes, BitVec.and_zero, BitVec.and_zero]

/-! ## The rows of the table -/

/-- Two rows whose fixed digits disagree somewhere: no word matches both. -/
def OpcodeRow.apart (r q : OpcodeRow) : Bool := (r.pattern ^^^ q.pattern) &&& r.mask &&& q.mask != 0#16

/-- NO TWO ROWS OVERLAP but CLS and RET with SYS, whose pattern contains them (R65). -/
theorem opcodeTable_apart :
    opcodeTable.Pairwise fun r q => r.apart q = true ∨ q.mnemonic = "SYS" := by decide

/-- The table has the 35 rows of R65. -/
theorem opcodeTable_length : opcodeTable.length = 35 := by decide

end Sys2Proof
end

