-- ==== Sys2Proof/Laws/State.lean ====
section
/-!
SUPPORT. What each setter of the state does to each field and each reader, once for all, so that no proof unfolds a
record update.
-/

namespace Sys2Proof.Machine

section writeV
variable (s : State) (x : Reg) (b : Byte)
@[simp] theorem State.writeV_mem : (s.writeV x b).mem = s.mem := rfl
@[simp] theorem State.writeV_v : (s.writeV x b).v = s.v.set x b := rfl
@[simp] theorem State.writeV_i : (s.writeV x b).i = s.i := rfl
@[simp] theorem State.writeV_pc : (s.writeV x b).pc = s.pc := rfl
@[simp] theorem State.writeV_stack : (s.writeV x b).stack = s.stack := rfl
@[simp] theorem State.writeV_sp : (s.writeV x b).sp = s.sp := rfl
@[simp] theorem State.writeV_dt : (s.writeV x b).dt = s.dt := rfl
@[simp] theorem State.writeV_st : (s.writeV x b).st = s.st := rfl
@[simp] theorem State.writeV_key : (s.writeV x b).key = s.key := rfl
@[simp] theorem State.writeV_fb : (s.writeV x b).fb = s.fb := rfl
@[simp] theorem State.writeV_wait : (s.writeV x b).wait = s.wait := rfl
@[simp] theorem State.writeV_waitx : (s.writeV x b).waitx = s.waitx := rfl
@[simp] theorem State.writeV_kprev : (s.writeV x b).kprev = s.kprev := rfl
@[simp] theorem State.writeV_env : (s.writeV x b).env = s.env := rfl
@[simp] theorem State.writeV_stackAt (j : Reg) : (s.writeV x b).stackAt j = s.stackAt j := rfl
@[simp] theorem State.writeV_pixel (row : Fin 32) (col : Fin 64) : (s.writeV x b).pixel row col = s.pixel row col := rfl
@[simp] theorem State.writeV_byteAt (a : Nat) : (s.writeV x b).byteAt a = s.byteAt a := rfl
end writeV

section writeRegs
variable (s : State) (bs : List Byte)
@[simp] theorem State.writeRegs_mem : (s.writeRegs bs).mem = s.mem := rfl
@[simp] theorem State.writeRegs_v : (s.writeRegs bs).v = Vector.ofFn fun k => bs.getD k.val s.v[k] := rfl
@[simp] theorem State.writeRegs_i : (s.writeRegs bs).i = s.i := rfl
@[simp] theorem State.writeRegs_pc : (s.writeRegs bs).pc = s.pc := rfl
@[simp] theorem State.writeRegs_stack : (s.writeRegs bs).stack = s.stack := rfl
@[simp] theorem State.writeRegs_sp : (s.writeRegs bs).sp = s.sp := rfl
@[simp] theorem State.writeRegs_dt : (s.writeRegs bs).dt = s.dt := rfl
@[simp] theorem State.writeRegs_st : (s.writeRegs bs).st = s.st := rfl
@[simp] theorem State.writeRegs_key : (s.writeRegs bs).key = s.key := rfl
@[simp] theorem State.writeRegs_fb : (s.writeRegs bs).fb = s.fb := rfl
@[simp] theorem State.writeRegs_wait : (s.writeRegs bs).wait = s.wait := rfl
@[simp] theorem State.writeRegs_waitx : (s.writeRegs bs).waitx = s.waitx := rfl
@[simp] theorem State.writeRegs_kprev : (s.writeRegs bs).kprev = s.kprev := rfl
@[simp] theorem State.writeRegs_env : (s.writeRegs bs).env = s.env := rfl
@[simp] theorem State.writeRegs_stackAt (j : Reg) : (s.writeRegs bs).stackAt j = s.stackAt j := rfl
@[simp] theorem State.writeRegs_pixel (row : Fin 32) (col : Fin 64) : (s.writeRegs bs).pixel row col = s.pixel row col := rfl
@[simp] theorem State.writeRegs_byteAt (a : Nat) : (s.writeRegs bs).byteAt a = s.byteAt a := rfl
end writeRegs

section setI
variable (s : State) (w : Word)
@[simp] theorem State.setI_mem : (s.setI w).mem = s.mem := rfl
@[simp] theorem State.setI_v : (s.setI w).v = s.v := rfl
@[simp] theorem State.setI_i : (s.setI w).i = w := rfl
@[simp] theorem State.setI_pc : (s.setI w).pc = s.pc := rfl
@[simp] theorem State.setI_stack : (s.setI w).stack = s.stack := rfl
@[simp] theorem State.setI_sp : (s.setI w).sp = s.sp := rfl
@[simp] theorem State.setI_dt : (s.setI w).dt = s.dt := rfl
@[simp] theorem State.setI_st : (s.setI w).st = s.st := rfl
@[simp] theorem State.setI_key : (s.setI w).key = s.key := rfl
@[simp] theorem State.setI_fb : (s.setI w).fb = s.fb := rfl
@[simp] theorem State.setI_wait : (s.setI w).wait = s.wait := rfl
@[simp] theorem State.setI_waitx : (s.setI w).waitx = s.waitx := rfl
@[simp] theorem State.setI_kprev : (s.setI w).kprev = s.kprev := rfl
@[simp] theorem State.setI_env : (s.setI w).env = s.env := rfl
@[simp] theorem State.setI_readV (y : Reg) : (s.setI w).readV y = s.readV y := rfl
@[simp] theorem State.setI_stackAt (j : Reg) : (s.setI w).stackAt j = s.stackAt j := rfl
@[simp] theorem State.setI_pixel (row : Fin 32) (col : Fin 64) : (s.setI w).pixel row col = s.pixel row col := rfl
@[simp] theorem State.setI_byteAt (a : Nat) : (s.setI w).byteAt a = s.byteAt a := rfl
end setI

section setPc
variable (s : State) (w : Word)
@[simp] theorem State.setPc_mem : (s.setPc w).mem = s.mem := rfl
@[simp] theorem State.setPc_v : (s.setPc w).v = s.v := rfl
@[simp] theorem State.setPc_i : (s.setPc w).i = s.i := rfl
@[simp] theorem State.setPc_pc : (s.setPc w).pc = w := rfl
@[simp] theorem State.setPc_stack : (s.setPc w).stack = s.stack := rfl
@[simp] theorem State.setPc_sp : (s.setPc w).sp = s.sp := rfl
@[simp] theorem State.setPc_dt : (s.setPc w).dt = s.dt := rfl
@[simp] theorem State.setPc_st : (s.setPc w).st = s.st := rfl
@[simp] theorem State.setPc_key : (s.setPc w).key = s.key := rfl
@[simp] theorem State.setPc_fb : (s.setPc w).fb = s.fb := rfl
@[simp] theorem State.setPc_wait : (s.setPc w).wait = s.wait := rfl
@[simp] theorem State.setPc_waitx : (s.setPc w).waitx = s.waitx := rfl
@[simp] theorem State.setPc_kprev : (s.setPc w).kprev = s.kprev := rfl
@[simp] theorem State.setPc_env : (s.setPc w).env = s.env := rfl
@[simp] theorem State.setPc_readV (y : Reg) : (s.setPc w).readV y = s.readV y := rfl
@[simp] theorem State.setPc_stackAt (j : Reg) : (s.setPc w).stackAt j = s.stackAt j := rfl
@[simp] theorem State.setPc_pixel (row : Fin 32) (col : Fin 64) : (s.setPc w).pixel row col = s.pixel row col := rfl
@[simp] theorem State.setPc_byteAt (a : Nat) : (s.setPc w).byteAt a = s.byteAt a := rfl
end setPc

section setSp
variable (s : State) (n : Fin 17)
@[simp] theorem State.setSp_mem : (s.setSp n).mem = s.mem := rfl
@[simp] theorem State.setSp_v : (s.setSp n).v = s.v := rfl
@[simp] theorem State.setSp_i : (s.setSp n).i = s.i := rfl
@[simp] theorem State.setSp_pc : (s.setSp n).pc = s.pc := rfl
@[simp] theorem State.setSp_stack : (s.setSp n).stack = s.stack := rfl
@[simp] theorem State.setSp_sp : (s.setSp n).sp = n := rfl
@[simp] theorem State.setSp_dt : (s.setSp n).dt = s.dt := rfl
@[simp] theorem State.setSp_st : (s.setSp n).st = s.st := rfl
@[simp] theorem State.setSp_key : (s.setSp n).key = s.key := rfl
@[simp] theorem State.setSp_fb : (s.setSp n).fb = s.fb := rfl
@[simp] theorem State.setSp_wait : (s.setSp n).wait = s.wait := rfl
@[simp] theorem State.setSp_waitx : (s.setSp n).waitx = s.waitx := rfl
@[simp] theorem State.setSp_kprev : (s.setSp n).kprev = s.kprev := rfl
@[simp] theorem State.setSp_env : (s.setSp n).env = s.env := rfl
@[simp] theorem State.setSp_readV (y : Reg) : (s.setSp n).readV y = s.readV y := rfl
@[simp] theorem State.setSp_stackAt (j : Reg) : (s.setSp n).stackAt j = s.stackAt j := rfl
@[simp] theorem State.setSp_pixel (row : Fin 32) (col : Fin 64) : (s.setSp n).pixel row col = s.pixel row col := rfl
@[simp] theorem State.setSp_byteAt (a : Nat) : (s.setSp n).byteAt a = s.byteAt a := rfl
end setSp

section setDt
variable (s : State) (b : Byte)
@[simp] theorem State.setDt_mem : (s.setDt b).mem = s.mem := rfl
@[simp] theorem State.setDt_v : (s.setDt b).v = s.v := rfl
@[simp] theorem State.setDt_i : (s.setDt b).i = s.i := rfl
@[simp] theorem State.setDt_pc : (s.setDt b).pc = s.pc := rfl
@[simp] theorem State.setDt_stack : (s.setDt b).stack = s.stack := rfl
@[simp] theorem State.setDt_sp : (s.setDt b).sp = s.sp := rfl
@[simp] theorem State.setDt_dt : (s.setDt b).dt = b := rfl
@[simp] theorem State.setDt_st : (s.setDt b).st = s.st := rfl
@[simp] theorem State.setDt_key : (s.setDt b).key = s.key := rfl
@[simp] theorem State.setDt_fb : (s.setDt b).fb = s.fb := rfl
@[simp] theorem State.setDt_wait : (s.setDt b).wait = s.wait := rfl
@[simp] theorem State.setDt_waitx : (s.setDt b).waitx = s.waitx := rfl
@[simp] theorem State.setDt_kprev : (s.setDt b).kprev = s.kprev := rfl
@[simp] theorem State.setDt_env : (s.setDt b).env = s.env := rfl
@[simp] theorem State.setDt_readV (y : Reg) : (s.setDt b).readV y = s.readV y := rfl
@[simp] theorem State.setDt_stackAt (j : Reg) : (s.setDt b).stackAt j = s.stackAt j := rfl
@[simp] theorem State.setDt_pixel (row : Fin 32) (col : Fin 64) : (s.setDt b).pixel row col = s.pixel row col := rfl
@[simp] theorem State.setDt_byteAt (a : Nat) : (s.setDt b).byteAt a = s.byteAt a := rfl
end setDt

section setSt
variable (s : State) (b : Byte)
@[simp] theorem State.setSt_mem : (s.setSt b).mem = s.mem := rfl
@[simp] theorem State.setSt_v : (s.setSt b).v = s.v := rfl
@[simp] theorem State.setSt_i : (s.setSt b).i = s.i := rfl
@[simp] theorem State.setSt_pc : (s.setSt b).pc = s.pc := rfl
@[simp] theorem State.setSt_stack : (s.setSt b).stack = s.stack := rfl
@[simp] theorem State.setSt_sp : (s.setSt b).sp = s.sp := rfl
@[simp] theorem State.setSt_dt : (s.setSt b).dt = s.dt := rfl
@[simp] theorem State.setSt_st : (s.setSt b).st = b := rfl
@[simp] theorem State.setSt_key : (s.setSt b).key = s.key := rfl
@[simp] theorem State.setSt_fb : (s.setSt b).fb = s.fb := rfl
@[simp] theorem State.setSt_wait : (s.setSt b).wait = s.wait := rfl
@[simp] theorem State.setSt_waitx : (s.setSt b).waitx = s.waitx := rfl
@[simp] theorem State.setSt_kprev : (s.setSt b).kprev = s.kprev := rfl
@[simp] theorem State.setSt_env : (s.setSt b).env = s.env := rfl
@[simp] theorem State.setSt_readV (y : Reg) : (s.setSt b).readV y = s.readV y := rfl
@[simp] theorem State.setSt_stackAt (j : Reg) : (s.setSt b).stackAt j = s.stackAt j := rfl
@[simp] theorem State.setSt_pixel (row : Fin 32) (col : Fin 64) : (s.setSt b).pixel row col = s.pixel row col := rfl
@[simp] theorem State.setSt_byteAt (a : Nat) : (s.setSt b).byteAt a = s.byteAt a := rfl
end setSt

section setMem
variable (s : State) (m : Memory)
@[simp] theorem State.setMem_mem : (s.setMem m).mem = m := rfl
@[simp] theorem State.setMem_v : (s.setMem m).v = s.v := rfl
@[simp] theorem State.setMem_i : (s.setMem m).i = s.i := rfl
@[simp] theorem State.setMem_pc : (s.setMem m).pc = s.pc := rfl
@[simp] theorem State.setMem_stack : (s.setMem m).stack = s.stack := rfl
@[simp] theorem State.setMem_sp : (s.setMem m).sp = s.sp := rfl
@[simp] theorem State.setMem_dt : (s.setMem m).dt = s.dt := rfl
@[simp] theorem State.setMem_st : (s.setMem m).st = s.st := rfl
@[simp] theorem State.setMem_key : (s.setMem m).key = s.key := rfl
@[simp] theorem State.setMem_fb : (s.setMem m).fb = s.fb := rfl
@[simp] theorem State.setMem_wait : (s.setMem m).wait = s.wait := rfl
@[simp] theorem State.setMem_waitx : (s.setMem m).waitx = s.waitx := rfl
@[simp] theorem State.setMem_kprev : (s.setMem m).kprev = s.kprev := rfl
@[simp] theorem State.setMem_env : (s.setMem m).env = s.env := rfl
@[simp] theorem State.setMem_readV (y : Reg) : (s.setMem m).readV y = s.readV y := rfl
@[simp] theorem State.setMem_stackAt (j : Reg) : (s.setMem m).stackAt j = s.stackAt j := rfl
@[simp] theorem State.setMem_pixel (row : Fin 32) (col : Fin 64) : (s.setMem m).pixel row col = s.pixel row col := rfl
end setMem

section setFb
variable (s : State) (f : Framebuffer)
@[simp] theorem State.setFb_mem : (s.setFb f).mem = s.mem := rfl
@[simp] theorem State.setFb_v : (s.setFb f).v = s.v := rfl
@[simp] theorem State.setFb_i : (s.setFb f).i = s.i := rfl
@[simp] theorem State.setFb_pc : (s.setFb f).pc = s.pc := rfl
@[simp] theorem State.setFb_stack : (s.setFb f).stack = s.stack := rfl
@[simp] theorem State.setFb_sp : (s.setFb f).sp = s.sp := rfl
@[simp] theorem State.setFb_dt : (s.setFb f).dt = s.dt := rfl
@[simp] theorem State.setFb_st : (s.setFb f).st = s.st := rfl
@[simp] theorem State.setFb_key : (s.setFb f).key = s.key := rfl
@[simp] theorem State.setFb_fb : (s.setFb f).fb = f := rfl
@[simp] theorem State.setFb_wait : (s.setFb f).wait = s.wait := rfl
@[simp] theorem State.setFb_waitx : (s.setFb f).waitx = s.waitx := rfl
@[simp] theorem State.setFb_kprev : (s.setFb f).kprev = s.kprev := rfl
@[simp] theorem State.setFb_env : (s.setFb f).env = s.env := rfl
@[simp] theorem State.setFb_readV (y : Reg) : (s.setFb f).readV y = s.readV y := rfl
@[simp] theorem State.setFb_stackAt (j : Reg) : (s.setFb f).stackAt j = s.stackAt j := rfl
@[simp] theorem State.setFb_byteAt (a : Nat) : (s.setFb f).byteAt a = s.byteAt a := rfl
end setFb

section writeKey
variable (s : State) (k : Reg) (d : Bool)
@[simp] theorem State.writeKey_mem : (s.writeKey k d).mem = s.mem := rfl
@[simp] theorem State.writeKey_v : (s.writeKey k d).v = s.v := rfl
@[simp] theorem State.writeKey_i : (s.writeKey k d).i = s.i := rfl
@[simp] theorem State.writeKey_pc : (s.writeKey k d).pc = s.pc := rfl
@[simp] theorem State.writeKey_stack : (s.writeKey k d).stack = s.stack := rfl
@[simp] theorem State.writeKey_sp : (s.writeKey k d).sp = s.sp := rfl
@[simp] theorem State.writeKey_dt : (s.writeKey k d).dt = s.dt := rfl
@[simp] theorem State.writeKey_st : (s.writeKey k d).st = s.st := rfl
@[simp] theorem State.writeKey_key : (s.writeKey k d).key = s.key.set k d := rfl
@[simp] theorem State.writeKey_fb : (s.writeKey k d).fb = s.fb := rfl
@[simp] theorem State.writeKey_wait : (s.writeKey k d).wait = s.wait := rfl
@[simp] theorem State.writeKey_waitx : (s.writeKey k d).waitx = s.waitx := rfl
@[simp] theorem State.writeKey_kprev : (s.writeKey k d).kprev = s.kprev := rfl
@[simp] theorem State.writeKey_env : (s.writeKey k d).env = s.env := rfl
@[simp] theorem State.writeKey_readV (y : Reg) : (s.writeKey k d).readV y = s.readV y := rfl
@[simp] theorem State.writeKey_stackAt (j : Reg) : (s.writeKey k d).stackAt j = s.stackAt j := rfl
@[simp] theorem State.writeKey_pixel (row : Fin 32) (col : Fin 64) : (s.writeKey k d).pixel row col = s.pixel row col := rfl
@[simp] theorem State.writeKey_byteAt (a : Nat) : (s.writeKey k d).byteAt a = s.byteAt a := rfl
end writeKey

section setWait
variable (s : State) (d : Bool)
@[simp] theorem State.setWait_mem : (s.setWait d).mem = s.mem := rfl
@[simp] theorem State.setWait_v : (s.setWait d).v = s.v := rfl
@[simp] theorem State.setWait_i : (s.setWait d).i = s.i := rfl
@[simp] theorem State.setWait_pc : (s.setWait d).pc = s.pc := rfl
@[simp] theorem State.setWait_stack : (s.setWait d).stack = s.stack := rfl
@[simp] theorem State.setWait_sp : (s.setWait d).sp = s.sp := rfl
@[simp] theorem State.setWait_dt : (s.setWait d).dt = s.dt := rfl
@[simp] theorem State.setWait_st : (s.setWait d).st = s.st := rfl
@[simp] theorem State.setWait_key : (s.setWait d).key = s.key := rfl
@[simp] theorem State.setWait_fb : (s.setWait d).fb = s.fb := rfl
@[simp] theorem State.setWait_wait : (s.setWait d).wait = d := rfl
@[simp] theorem State.setWait_waitx : (s.setWait d).waitx = s.waitx := rfl
@[simp] theorem State.setWait_kprev : (s.setWait d).kprev = s.kprev := rfl
@[simp] theorem State.setWait_env : (s.setWait d).env = s.env := rfl
@[simp] theorem State.setWait_readV (y : Reg) : (s.setWait d).readV y = s.readV y := rfl
@[simp] theorem State.setWait_stackAt (j : Reg) : (s.setWait d).stackAt j = s.stackAt j := rfl
@[simp] theorem State.setWait_pixel (row : Fin 32) (col : Fin 64) : (s.setWait d).pixel row col = s.pixel row col := rfl
@[simp] theorem State.setWait_byteAt (a : Nat) : (s.setWait d).byteAt a = s.byteAt a := rfl
end setWait

section setWaitx
variable (s : State) (x : Reg)
@[simp] theorem State.setWaitx_mem : (s.setWaitx x).mem = s.mem := rfl
@[simp] theorem State.setWaitx_v : (s.setWaitx x).v = s.v := rfl
@[simp] theorem State.setWaitx_i : (s.setWaitx x).i = s.i := rfl
@[simp] theorem State.setWaitx_pc : (s.setWaitx x).pc = s.pc := rfl
@[simp] theorem State.setWaitx_stack : (s.setWaitx x).stack = s.stack := rfl
@[simp] theorem State.setWaitx_sp : (s.setWaitx x).sp = s.sp := rfl
@[simp] theorem State.setWaitx_dt : (s.setWaitx x).dt = s.dt := rfl
@[simp] theorem State.setWaitx_st : (s.setWaitx x).st = s.st := rfl
@[simp] theorem State.setWaitx_key : (s.setWaitx x).key = s.key := rfl
@[simp] theorem State.setWaitx_fb : (s.setWaitx x).fb = s.fb := rfl
@[simp] theorem State.setWaitx_wait : (s.setWaitx x).wait = s.wait := rfl
@[simp] theorem State.setWaitx_waitx : (s.setWaitx x).waitx = x := rfl
@[simp] theorem State.setWaitx_kprev : (s.setWaitx x).kprev = s.kprev := rfl
@[simp] theorem State.setWaitx_env : (s.setWaitx x).env = s.env := rfl
@[simp] theorem State.setWaitx_readV (y : Reg) : (s.setWaitx x).readV y = s.readV y := rfl
@[simp] theorem State.setWaitx_stackAt (j : Reg) : (s.setWaitx x).stackAt j = s.stackAt j := rfl
@[simp] theorem State.setWaitx_pixel (row : Fin 32) (col : Fin 64) : (s.setWaitx x).pixel row col = s.pixel row col := rfl
@[simp] theorem State.setWaitx_byteAt (a : Nat) : (s.setWaitx x).byteAt a = s.byteAt a := rfl
end setWaitx

section snapshotKeys
variable (s : State)
@[simp] theorem State.snapshotKeys_mem : (s.snapshotKeys).mem = s.mem := rfl
@[simp] theorem State.snapshotKeys_v : (s.snapshotKeys).v = s.v := rfl
@[simp] theorem State.snapshotKeys_i : (s.snapshotKeys).i = s.i := rfl
@[simp] theorem State.snapshotKeys_pc : (s.snapshotKeys).pc = s.pc := rfl
@[simp] theorem State.snapshotKeys_stack : (s.snapshotKeys).stack = s.stack := rfl
@[simp] theorem State.snapshotKeys_sp : (s.snapshotKeys).sp = s.sp := rfl
@[simp] theorem State.snapshotKeys_dt : (s.snapshotKeys).dt = s.dt := rfl
@[simp] theorem State.snapshotKeys_st : (s.snapshotKeys).st = s.st := rfl
@[simp] theorem State.snapshotKeys_key : (s.snapshotKeys).key = s.key := rfl
@[simp] theorem State.snapshotKeys_fb : (s.snapshotKeys).fb = s.fb := rfl
@[simp] theorem State.snapshotKeys_wait : (s.snapshotKeys).wait = s.wait := rfl
@[simp] theorem State.snapshotKeys_waitx : (s.snapshotKeys).waitx = s.waitx := rfl
@[simp] theorem State.snapshotKeys_kprev : (s.snapshotKeys).kprev = s.key := rfl
@[simp] theorem State.snapshotKeys_env : (s.snapshotKeys).env = s.env := rfl
@[simp] theorem State.snapshotKeys_readV (y : Reg) : (s.snapshotKeys).readV y = s.readV y := rfl
@[simp] theorem State.snapshotKeys_stackAt (j : Reg) : (s.snapshotKeys).stackAt j = s.stackAt j := rfl
@[simp] theorem State.snapshotKeys_pixel (row : Fin 32) (col : Fin 64) : (s.snapshotKeys).pixel row col = s.pixel row col := rfl
@[simp] theorem State.snapshotKeys_byteAt (a : Nat) : (s.snapshotKeys).byteAt a = s.byteAt a := rfl
end snapshotKeys

section setEnv
variable (s : State) (e : Env)
@[simp] theorem State.setEnv_mem : (s.setEnv e).mem = s.mem := rfl
@[simp] theorem State.setEnv_v : (s.setEnv e).v = s.v := rfl
@[simp] theorem State.setEnv_i : (s.setEnv e).i = s.i := rfl
@[simp] theorem State.setEnv_pc : (s.setEnv e).pc = s.pc := rfl
@[simp] theorem State.setEnv_stack : (s.setEnv e).stack = s.stack := rfl
@[simp] theorem State.setEnv_sp : (s.setEnv e).sp = s.sp := rfl
@[simp] theorem State.setEnv_dt : (s.setEnv e).dt = s.dt := rfl
@[simp] theorem State.setEnv_st : (s.setEnv e).st = s.st := rfl
@[simp] theorem State.setEnv_key : (s.setEnv e).key = s.key := rfl
@[simp] theorem State.setEnv_fb : (s.setEnv e).fb = s.fb := rfl
@[simp] theorem State.setEnv_wait : (s.setEnv e).wait = s.wait := rfl
@[simp] theorem State.setEnv_waitx : (s.setEnv e).waitx = s.waitx := rfl
@[simp] theorem State.setEnv_kprev : (s.setEnv e).kprev = s.kprev := rfl
@[simp] theorem State.setEnv_env : (s.setEnv e).env = e := rfl
@[simp] theorem State.setEnv_readV (y : Reg) : (s.setEnv e).readV y = s.readV y := rfl
@[simp] theorem State.setEnv_stackAt (j : Reg) : (s.setEnv e).stackAt j = s.stackAt j := rfl
@[simp] theorem State.setEnv_pixel (row : Fin 32) (col : Fin 64) : (s.setEnv e).pixel row col = s.pixel row col := rfl
@[simp] theorem State.setEnv_byteAt (a : Nat) : (s.setEnv e).byteAt a = s.byteAt a := rfl
end setEnv

section writeStack
variable (s : State) (k : Reg) (w : Word)
@[simp] theorem State.writeStack_mem : (s.writeStack k w).mem = s.mem := rfl
@[simp] theorem State.writeStack_v : (s.writeStack k w).v = s.v := rfl
@[simp] theorem State.writeStack_i : (s.writeStack k w).i = s.i := rfl
@[simp] theorem State.writeStack_pc : (s.writeStack k w).pc = s.pc := rfl
@[simp] theorem State.writeStack_stack : (s.writeStack k w).stack = s.stack.set k w := rfl
@[simp] theorem State.writeStack_sp : (s.writeStack k w).sp = s.sp := rfl
@[simp] theorem State.writeStack_dt : (s.writeStack k w).dt = s.dt := rfl
@[simp] theorem State.writeStack_st : (s.writeStack k w).st = s.st := rfl
@[simp] theorem State.writeStack_key : (s.writeStack k w).key = s.key := rfl
@[simp] theorem State.writeStack_fb : (s.writeStack k w).fb = s.fb := rfl
@[simp] theorem State.writeStack_wait : (s.writeStack k w).wait = s.wait := rfl
@[simp] theorem State.writeStack_waitx : (s.writeStack k w).waitx = s.waitx := rfl
@[simp] theorem State.writeStack_kprev : (s.writeStack k w).kprev = s.kprev := rfl
@[simp] theorem State.writeStack_env : (s.writeStack k w).env = s.env := rfl
@[simp] theorem State.writeStack_readV (y : Reg) : (s.writeStack k w).readV y = s.readV y := rfl
@[simp] theorem State.writeStack_pixel (row : Fin 32) (col : Fin 64) : (s.writeStack k w).pixel row col = s.pixel row col := rfl
@[simp] theorem State.writeStack_byteAt (a : Nat) : (s.writeStack k w).byteAt a = s.byteAt a := rfl
end writeStack

/-! Readers of the part a setter writes. -/

section readers
variable (s : State)

theorem State.readV_writeV (x y : Reg) (b : Byte) : (s.writeV x b).readV y = if y = x then b else s.readV y := by
  simp only [State.readV, State.writeV, Fin.getElem_fin, Vector.getElem_set, Fin.val_inj, eq_comm]

@[simp] theorem State.readV_writeV_same (x : Reg) (b : Byte) : (s.writeV x b).readV x = b := by
  simp [State.readV_writeV]

@[simp] theorem State.readV_writeV_ne {x y : Reg} (b : Byte) (h : y ≠ x) :
    (s.writeV x b).readV y = s.readV y := by
  simp [State.readV_writeV, h]

theorem State.readV_writeRegs (bs : List Byte) (y : Reg) :
    (s.writeRegs bs).readV y = bs.getD y.val (s.readV y) := by
  simp [State.readV, State.writeRegs]

theorem State.stackAt_writeStack (k j : Reg) (w : Word) :
    (s.writeStack k w).stackAt j = if j = k then w else s.stackAt j := by
  simp only [State.stackAt, State.writeStack, Fin.getElem_fin, Vector.getElem_set, Fin.val_inj, eq_comm]

theorem State.key_writeKey (k j : Reg) (d : Bool) :
    (s.writeKey k d).key[j] = if j = k then d else s.key[j] := by
  simp only [State.writeKey, Fin.getElem_fin, Vector.getElem_set, Fin.val_inj, eq_comm]

@[simp] theorem State.byteAt_setMem (m : Memory) (a : Nat) : (s.setMem m).byteAt a = Memory.read m a := rfl

theorem State.pixel_setFb (f : Framebuffer) (row : Fin 32) (col : Fin 64) :
    (s.setFb f).pixel row col = f[row][col] := rfl

end readers

/-! The operations that are a setter under another name. -/

@[simp] theorem State.advance_eq (s : State) : s.advance = s.setPc (s.pc + 2#16) := rfl
@[simp] theorem State.skip_eq (s : State) : s.skip = s.setPc (s.pc + 4#16) := rfl
@[simp] theorem State.writeFlag_eq (s : State) (b : Byte) : s.writeFlag b = s.writeV 15 b := rfl
@[simp] theorem State.supplyRnd_eq (s : State) (b : Byte) :
    s.supplyRnd b = s.setEnv { s.env with rnd := b } := rfl
@[simp] theorem done_eq (s : State) : done s = .next (s.setPc (s.pc + 2#16)) := rfl
@[simp] theorem skipIf_eq (c : Bool) (s : State) :
    skipIf c s = .next (s.setPc (s.pc + if c then 4#16 else 2#16)) := by
  cases c <;> rfl

end Sys2Proof.Machine
end

