-- ==== Sys2Proof/Laws/Display.lean ====
section
/-!
SUPPORT. What drawing a sprite does to each pixel and when it erases one (44_display.md R131): the lit pixels of a
sprite are distinct, so each is flipped once and the order of the loops is unobservable.
-/

namespace Sys2Proof.Machine

theorem Framebuffer.getElem_flip (f : Framebuffer) (p : Fin 32 × Fin 64) (row : Fin 32) (col : Fin 64) :
    (f.flip p.1 p.2)[row][col] = if (row, col) = p then !f[row][col] else f[row][col] := by
  obtain ⟨r, c⟩ := p
  simp only [Framebuffer.flip, Fin.getElem_fin, Vector.getElem_set, Prod.mk.injEq]
  by_cases hr : r = row
  · subst hr
    by_cases hc : c = col
    · subst hc; simp
    · have : ¬ c.val = col.val := fun h => hc (Fin.ext h)
      have hc' : ¬ col = c := fun h => hc h.symm
      simp [this, hc']
  · have : ¬ r.val = row.val := fun h => hr (Fin.ext h)
    have hr' : ¬ row = r := fun h => hr h.symm
    simp [this, hr']

theorem Framebuffer.getElem_clear (row : Fin 32) (col : Fin 64) : Framebuffer.clear[row][col] = false := by
  simp [Framebuffer.clear]

/-- Drawing distinct pixels flips each of them and no other, and erases exactly if one of them was lit. -/
theorem drawPixels_spec (ps : List (Fin 32 × Fin 64)) (h : ps.Nodup) (f : Framebuffer) (e : Bool) :
    (∀ row col, (ps.foldl drawPixel (f, e)).1[row][col] =
        if (row, col) ∈ ps then !f[row][col] else f[row][col]) ∧
      (ps.foldl drawPixel (f, e)).2 = (e || ps.any fun p => f[p.1][p.2]) := by
  induction ps generalizing f e with
  | nil => simp
  | cons p rest ih =>
    rw [List.nodup_cons] at h
    obtain ⟨ih1, ih2⟩ := ih h.2 (f.flip p.1 p.2) (e || f[p.1][p.2])
    refine ⟨fun row col => ?_, ?_⟩
    · rw [List.foldl_cons, drawPixel, ih1, Framebuffer.getElem_flip]
      by_cases hp : (row, col) = p
      · subst hp; simp [h.1]
      · simp [hp]
    · rw [List.foldl_cons, drawPixel, ih2, List.any_cons, Bool.or_assoc]
      congr 2
      apply Bool.eq_iff_iff.mpr
      simp only [List.any_eq_true]
      refine exists_congr fun q => and_congr_right fun hq => ?_
      rw [Framebuffer.getElem_flip, if_neg]
      rintro rfl
      exact h.1 hq

theorem mem_rowPixels (x0 row0 : Nat) (b : Byte) (p : Fin 32 × Fin 64) :
    p ∈ rowPixels x0 row0 b ↔ ∃ c < 8, b.getLsbD (7 - c) = true ∧ p = wrapPixel row0 (x0 + c) := by
  simp only [rowPixels, List.mem_map, List.mem_filter, List.mem_range]
  constructor
  · rintro ⟨c, ⟨hc, hb⟩, rfl⟩; exact ⟨c, hc, hb, rfl⟩
  · rintro ⟨c, hc, hb, rfl⟩; exact ⟨c, ⟨hc, hb⟩, rfl⟩

/-- The lit pixels of a sprite: row r, bit 7 - c, each coordinate wrapped by itself (R131, R132). -/
theorem mem_spritePixels (x0 row0 : Nat) (bs : List Byte) (p : Fin 32 × Fin 64) :
    p ∈ spritePixels x0 row0 bs ↔
      ∃ r < bs.length, ∃ c < 8, (bs.getD r 0#8).getLsbD (7 - c) = true ∧ p = wrapPixel (row0 + r) (x0 + c) := by
  induction bs generalizing row0 with
  | nil => simp [spritePixels]
  | cons b rest ih =>
    rw [spritePixels, List.mem_append, mem_rowPixels, ih]
    constructor
    · rintro (⟨c, hc, hb, rfl⟩ | ⟨r, hr, c, hc, hb, rfl⟩)
      · exact ⟨0, by simp, c, hc, by simpa using hb, rfl⟩
      · exact ⟨r + 1, by simpa using hr, c, hc, by simpa using hb, by rw [show row0 + 1 + r = row0 + (r + 1) by omega]⟩
    · rintro ⟨r, hr, c, hc, hb, rfl⟩
      cases r with
      | zero => exact .inl ⟨c, hc, by simpa using hb, rfl⟩
      | succ r =>
        exact .inr ⟨r, by simpa using hr, c, hc, by simpa using hb,
          by rw [show row0 + 1 + r = row0 + (r + 1) by omega]⟩

theorem wrapPixel_eq_iff (r r' c c' : Nat) :
    wrapPixel r c = wrapPixel r' c' ↔ r % 32 = r' % 32 ∧ c % 64 = c' % 64 := by
  simp [wrapPixel, Prod.ext_iff, Fin.ext_iff, Fin.ofNat]

theorem rowPixels_nodup (x0 row0 : Nat) (b : Byte) : (rowPixels x0 row0 b).Nodup := by
  refine (List.nodup_range.filter _).map_on fun c hc c' hc' heq => ?_
  rw [wrapPixel_eq_iff] at heq
  simp only [List.mem_filter, List.mem_range] at hc hc'
  omega

/-- A sprite of at most 32 rows lights each pixel at most once. -/
theorem spritePixels_nodup (x0 row0 : Nat) (bs : List Byte) (h : bs.length ≤ 32) :
    (spritePixels x0 row0 bs).Nodup := by
  induction bs generalizing row0 with
  | nil => simp [spritePixels]
  | cons b rest ih =>
    simp only [List.length_cons] at h
    rw [spritePixels, List.nodup_append']
    refine ⟨rowPixels_nodup _ _ _, ih (row0 + 1) (by omega), fun p hp hq => ?_⟩
    rw [mem_rowPixels] at hp
    rw [mem_spritePixels] at hq
    obtain ⟨c, hc, -, rfl⟩ := hp
    obtain ⟨r, hr, c', hc', -, heq⟩ := hq
    rw [wrapPixel_eq_iff] at heq
    omega

end Sys2Proof.Machine
end

