-- ==== Sys2Proof/Laws/Memory.lean ====
section
/-!
SUPPORT. The laws of memory: a read after a write, the bytes of a range, and that every operation keeps the canonical
form, in which equal memories are equal lists.
-/

namespace Sys2Proof.Machine

@[simp] theorem Memory.read_nil (a : Nat) : Memory.read [] a = 0#8 := rfl

/-- Nothing below the first entry is listed. -/
theorem Memory.read_below {m : Memory} {lo a : Nat} (h : Memory.risingFrom lo m = true) (ha : a < lo) :
    Memory.read m a = 0#8 := by
  induction m generalizing lo with
  | nil => rfl
  | cons c rest ih =>
    simp only [Memory.risingFrom, Bool.and_eq_true, decide_eq_true_eq] at h
    rw [Memory.read, if_neg (by omega)]
    exact ih h.2 (by omega)

theorem Memory.risingFrom_mono {m : Memory} {lo lo' : Nat} (h : Memory.risingFrom lo m = true) (hl : lo' ≤ lo) :
    Memory.risingFrom lo' m = true := by
  cases m with
  | nil => rfl
  | cons c rest =>
    simp only [Memory.risingFrom, Bool.and_eq_true, decide_eq_true_eq] at h ⊢
    exact ⟨⟨⟨by omega, h.1.1.2⟩, h.1.2⟩, h.2⟩

/-- A write keeps the entries rising. -/
theorem Memory.risingFrom_write {m : Memory} {lo a : Nat} {v : Byte} (h : Memory.risingFrom lo m = true)
    (hlo : lo ≤ a) (ha : a < 4096) : Memory.risingFrom lo (Memory.write m a v) = true := by
  induction m generalizing lo with
  | nil =>
    by_cases hv : v = 0#8 <;> simp_all [Memory.write, Memory.risingFrom]
  | cons c rest ih =>
    obtain ⟨b, w⟩ := c
    have h' := h
    simp only [Memory.risingFrom, Bool.and_eq_true, decide_eq_true_eq] at h
    obtain ⟨⟨⟨h1, h2⟩, h3⟩, h4⟩ := h
    unfold Memory.write
    split
    · split
      · exact h'
      · simp_all [Memory.risingFrom]
    · split
      · subst a
        split
        · exact Memory.risingFrom_mono h4 (by omega)
        · simp_all [Memory.risingFrom]
      · simp only [Memory.risingFrom, Bool.and_eq_true, decide_eq_true_eq]
        exact ⟨⟨⟨h1, h2⟩, h3⟩, ih h4 (by omega)⟩

/-- A write to an address of the memory keeps the canonical form. -/
theorem Memory.wf_write {m : Memory} {a : Nat} {v : Byte} (h : Memory.wf m = true) (ha : a < 4096) :
    Memory.wf (Memory.write m a v) = true :=
  Memory.risingFrom_write h (Nat.zero_le a) ha

/-- A range write inside the memory keeps the canonical form. -/
theorem Memory.wf_writeRange {m : Memory} {a : Nat} {bytes : List Byte} (h : Memory.wf m = true)
    (ha : a + bytes.length ≤ 4096) : Memory.wf (Memory.writeRange m a bytes) = true := by
  induction bytes generalizing m a with
  | nil => exact h
  | cons b rest ih =>
    simp only [List.length_cons] at ha
    exact ih (Memory.wf_write h (by omega)) (by omega)

/-- A read after a write, entries rising. -/
theorem Memory.read_write_rising {m : Memory} {lo a b : Nat} {v : Byte} (h : Memory.risingFrom lo m = true) :
    Memory.read (Memory.write m a v) b = if b = a then v else Memory.read m b := by
  induction m generalizing lo with
  | nil =>
    by_cases hv : v = 0#8 <;> by_cases hb : b = a <;> simp [Memory.write, Memory.read, hv, hb]
  | cons c rest ih =>
    obtain ⟨k, w⟩ := c
    simp only [Memory.risingFrom, Bool.and_eq_true, decide_eq_true_eq] at h
    have below : ∀ x, x ≤ k → Memory.read rest x = 0#8 := fun x hx => Memory.read_below h.2 (by omega)
    have ih := ih h.2
    have hka := below a
    unfold Memory.write
    split
    · have hne : ¬ a = k := by omega
      by_cases hv : v = 0#8
      · by_cases hb : b = a
        · subst b; simp [Memory.read, hv, hne, below a (by omega)]
        · simp [hv, hb]
      · by_cases hb : b = a <;> simp [Memory.read, hv, hb]
    · split
      · subst a
        by_cases hv : v = 0#8
        · by_cases hb : b = k
          · subst b; simp [hv, below k (le_refl k)]
          · simp [Memory.read, hv, hb]
        · by_cases hb : b = k <;> simp [Memory.read, hv, hb]
      · by_cases hb : b = k
        · subst b; simp [Memory.read]; omega
        · simp [Memory.read, hb, ih]

/-- READ AFTER WRITE: the written address gives the value written, every other what it gave. -/
theorem Memory.read_write {m : Memory} (h : Memory.wf m = true) (a b : Nat) (v : Byte) :
    Memory.read (Memory.write m a v) b = if b = a then v else Memory.read m b :=
  Memory.read_write_rising h

/-- READ AFTER A RANGE WRITE. -/
theorem Memory.read_writeRange {m : Memory} (h : Memory.wf m = true) (a b : Nat) (bytes : List Byte)
    (ha : a + bytes.length ≤ 4096) :
    Memory.read (Memory.writeRange m a bytes) b =
      if a ≤ b ∧ b < a + bytes.length then bytes.getD (b - a) 0#8 else Memory.read m b := by
  induction bytes generalizing m a with
  | nil =>
    have : ¬ (a ≤ b ∧ b < a + ([] : List Byte).length) := by simp only [List.length_nil]; omega
    rw [if_neg this]; rfl
  | cons c rest ih =>
    simp only [List.length_cons] at ha ⊢
    rw [Memory.writeRange, ih (Memory.wf_write h (by omega)) (a + 1) (by omega), Memory.read_write h]
    by_cases hb : b = a
    · subst b
      rw [if_neg (by omega), if_pos rfl, if_pos (by omega)]
      simp
    · by_cases hr : a + 1 ≤ b ∧ b < a + 1 + rest.length
      · rw [if_pos hr, if_pos (by omega)]
        obtain ⟨k, rfl⟩ : ∃ k, b = a + 1 + k := ⟨b - (a + 1), by omega⟩
        rw [Nat.add_sub_cancel_left, show a + 1 + k - a = k + 1 by omega]
        rfl
      · rw [if_neg hr, if_neg hb, if_neg (by omega)]

@[simp] theorem Memory.length_readRange (m : Memory) (a n : Nat) : (Memory.readRange m a n).length = n := by
  induction n generalizing a with
  | zero => rfl
  | succ k ih => simp [Memory.readRange, ih]

/-- The k-th byte of a range read. -/
theorem Memory.getD_readRange (m : Memory) (a n k : Nat) (d : Byte) :
    (Memory.readRange m a n).getD k d = if k < n then Memory.read m (a + k) else d := by
  induction n generalizing a k with
  | zero => simp [Memory.readRange]
  | succ n ih =>
    cases k with
    | zero => simp [Memory.readRange]
    | succ k =>
      simp only [Memory.readRange, List.getD_cons_succ, ih, Nat.add_lt_add_iff_right]
      rw [show a + 1 + k = a + (k + 1) by omega]

/-- Two memories in canonical form that read alike everywhere are the same list. -/
theorem Memory.ext_of_read {m m' : Memory} {lo lo' : Nat} (h : Memory.risingFrom lo m = true)
    (h' : Memory.risingFrom lo' m' = true) (hr : ∀ a, Memory.read m a = Memory.read m' a) : m = m' := by
  induction m generalizing m' lo lo' with
  | nil =>
    cases m' with
    | nil => rfl
    | cons c' rest' =>
      have := hr c'.1
      simp [Memory.risingFrom] at h'
      simp [Memory.read] at this
      exact absurd this.symm h'.1.2
  | cons c rest ih =>
    obtain ⟨k, w⟩ := c
    simp only [Memory.risingFrom, Bool.and_eq_true, decide_eq_true_eq, bne_iff_ne, ne_eq] at h
    cases m' with
    | nil =>
      have := hr k
      simp [Memory.read] at this
      exact absurd this h.1.2
    | cons c' rest' =>
      obtain ⟨k', w'⟩ := c'
      simp only [Memory.risingFrom, Bool.and_eq_true, decide_eq_true_eq, bne_iff_ne, ne_eq] at h'
      have hk : k = k' := by
        rcases Nat.lt_trichotomy k k' with hlt | heq | hgt
        · have := hr k
          rw [Memory.read, Memory.read, if_pos rfl, if_neg (by omega), Memory.read_below h'.2 (by omega)] at this
          exact absurd this h.1.2
        · exact heq
        · have := hr k'
          rw [Memory.read, Memory.read, if_pos rfl, if_neg (by omega), Memory.read_below h.2 (by omega)] at this
          exact absurd this.symm h'.1.2
      subst hk
      have hw : w = w' := by have := hr k; simpa [Memory.read] using this
      subst hw
      have : rest = rest' := by
        refine ih h.2 h'.2 fun a => ?_
        by_cases ha : a = k
        · rw [ha, Memory.read_below h.2 (by omega), Memory.read_below h'.2 (by omega)]
        · have := hr a; simpa [Memory.read, ha] using this
      rw [this]

/-- EQUAL MEMORIES ARE EQUAL DATA. -/
theorem Memory.eq_of_read {m m' : Memory} (h : Memory.wf m = true) (h' : Memory.wf m' = true)
    (hr : ∀ a, Memory.read m a = Memory.read m' a) : m = m' :=
  Memory.ext_of_read h h' hr

end Sys2Proof.Machine
end

