-- ==== Sys2Proof/Laws/Ops.lean ====
section
/-!
SUPPORT. What each shared operation can do, once: range loads and stores, push and pop, the raising of an error, the
waiting Step. A proof cites these and never unfolds the operation.
-/

namespace Sys2Proof.Machine

/-! ## The bound check and the range accesses (R48) -/

theorem inBounds_iff (a n : Nat) : inBounds a n = true ↔ n = 0 ∨ a + n ≤ 4096 := by
  simp [inBounds]

/-- A range load answers the bytes exactly when the range is in bounds. -/
theorem State.loadBytes_eq (s : State) (a n : Nat) :
    s.loadBytes a n = if n = 0 ∨ a + n ≤ 4096 then some (Memory.readRange s.mem a n) else none := by
  simp [State.loadBytes, inBounds]

/-- A range store writes all the bytes exactly when the range is in bounds, and nothing otherwise. -/
theorem State.storeBytes_eq (s : State) (a : Nat) (bs : List Byte) :
    s.storeBytes a bs =
      if bs.length = 0 ∨ a + bs.length ≤ 4096 then some (s.setMem (Memory.writeRange s.mem a bs)) else none := by
  simp [State.storeBytes, inBounds, State.setMem]

/-- What a byte reads as after a range store, memory in canonical form. -/
theorem State.byteAt_writeRange {s : State} (h : Memory.wf s.mem = true) (a b : Nat) (bs : List Byte)
    (ha : a + bs.length ≤ 4096) :
    (s.setMem (Memory.writeRange s.mem a bs)).byteAt b =
      if a ≤ b ∧ b < a + bs.length then bs.getD (b - a) 0#8 else s.byteAt b := by
  rw [State.byteAt_setMem, Memory.read_writeRange h a b bs ha]; rfl

/-- The digits are three bytes (R123). -/
@[simp] theorem length_decimalDigits (b : Byte) : (decimalDigits b).length = 3 := rfl

/-- Fx55 stores x + 1 registers (R63). -/
@[simp] theorem State.length_regsUpTo (s : State) (x : Reg) : (s.regsUpTo x).length = x.val + 1 := by
  simp [State.regsUpTo]

/-- The k-th of them is V[k]. -/
theorem State.getD_regsUpTo (s : State) (x : Reg) (k : Reg) (hk : k.val ≤ x.val) (d : Byte) :
    (s.regsUpTo x).getD k.val d = s.readV k := by
  have h1 : k.val < x.val + 1 := by omega
  simp [State.regsUpTo, State.readV, h1]

/-! ## Errors -/

@[simp] theorem orRaise_some {α : Type} (f : Fault) (a : α) (k : α → Result) : orRaise f (some a) k = k a := rfl

@[simp] theorem orRaise_none {α : Type} (f : Fault) (k : α → Result) : orRaise f none k = .fault f := rfl

/-- An instruction that may raise either goes on with the value, or raises its own error. -/
theorem orRaise_cases {α : Type} {f : Fault} {x : Option α} {k : α → Result} {r : Result}
    (h : orRaise f x k = r) : (∃ a, x = some a ∧ k a = r) ∨ (x = none ∧ r = .fault f) := by
  cases x with
  | none => exact .inr ⟨rfl, h.symm⟩
  | some a => exact .inl ⟨a, rfl, h⟩

/-! ## The stack (R81, R83) -/

/-- A push succeeds below 16 entries, and writes the slot SP. -/
theorem State.push_of_lt {s : State} (w : Word) (h : s.sp.val < 16) :
    s.push w = some ((s.writeStack ⟨s.sp.val, h⟩ w).setSp ⟨s.sp.val + 1, Nat.succ_lt_succ h⟩) := by
  simp [State.push, h]

/-- A push on 16 entries does nothing. -/
theorem State.push_full {s : State} (w : Word) (h : s.sp.val = 16) : s.push w = none := by
  simp [State.push, h]

/-- A pop of no entries does nothing. -/
theorem State.pop_empty {s : State} (h : s.sp.val = 0) : s.pop = none := by
  unfold State.pop; split
  · rfl
  · omega

/-- A pop of k + 1 entries reads the slot k and leaves it as it is. -/
theorem State.pop_of_succ {s : State} {k : Nat} (h : s.sp.val = k + 1) :
    s.pop = some (s.stackAt ⟨k, by omega⟩, s.setSp ⟨k, by omega⟩) := by
  unfold State.pop; split
  · omega
  · rename_i j hj
    have : j = k := by omega
    subst this; rfl

/-! ## The waiting Step (R143) -/

/-- The key found is newly down, and no lower key is. -/
theorem State.newKey_some {s : State} {k : Reg} (h : s.newKey = some k) :
    s.key[k] = true ∧ s.kprev[k] = false ∧ ∀ j < k, ¬ (s.key[j] = true ∧ s.kprev[j] = false) := by
  rw [State.newKey, List.find?_eq_some_iff_getElem] at h
  obtain ⟨hk, n, hn, hget, hlow⟩ := h
  simp only [Bool.and_eq_true, Bool.not_eq_true'] at hk
  refine ⟨hk.1, hk.2, fun j hj hnew => ?_⟩
  have hnk : n = k.val := by have := congrArg Fin.val hget; simpa using this
  have := hlow j.val (by rw [hnk]; exact hj)
  simp [hnew.1, hnew.2] at this

/-- No key is newly down. -/
theorem State.newKey_none {s : State} : s.newKey = none ↔ ∀ j : Reg, ¬ (s.key[j] = true ∧ s.kprev[j] = false) := by
  rw [State.newKey, List.find?_eq_none]
  simp

/-- A waiting Step either completes the wait with the lowest new key or only takes a new snapshot. -/
theorem resumeWait_cases (s : State) :
    (∃ k, s.newKey = some k ∧ resumeWait s = (s.writeV s.waitx (keyByte k)).advance.setWait false) ∨
      (s.newKey = none ∧ resumeWait s = s.snapshotKeys) := by
  unfold resumeWait
  cases h : s.newKey with
  | none => exact .inr ⟨rfl, rfl⟩
  | some k => exact .inl ⟨k, rfl, rfl⟩

end Sys2Proof.Machine
end

