-- ==== Sys2Proof/Laws/Driver.lean ====
section
/-!
SUPPORT. What each operation of the environment leaves in each piece of state, one lemma per field, and the bytes that
Load and LoadFont leave in memory.
-/

namespace Sys2Proof.Machine

variable (s : State) (bytes : List Byte)

/-! ## loadProgram -/

@[simp] theorem loadProgram_mem : (loadProgram bytes s).mem = Memory.writeRange s.mem Config.progStart.toNat bytes := by simp [loadProgram]
@[simp] theorem loadProgram_v : (loadProgram bytes s).v = s.v := by simp [loadProgram]
@[simp] theorem loadProgram_i : (loadProgram bytes s).i = s.i := by simp [loadProgram]
@[simp] theorem loadProgram_pc : (loadProgram bytes s).pc = s.pc := by simp [loadProgram]
@[simp] theorem loadProgram_stack : (loadProgram bytes s).stack = s.stack := by simp [loadProgram]
@[simp] theorem loadProgram_sp : (loadProgram bytes s).sp = s.sp := by simp [loadProgram]
@[simp] theorem loadProgram_dt : (loadProgram bytes s).dt = s.dt := by simp [loadProgram]
@[simp] theorem loadProgram_st : (loadProgram bytes s).st = s.st := by simp [loadProgram]
@[simp] theorem loadProgram_key : (loadProgram bytes s).key = s.key := by simp [loadProgram]
@[simp] theorem loadProgram_fb : (loadProgram bytes s).fb = s.fb := by simp [loadProgram]
@[simp] theorem loadProgram_wait : (loadProgram bytes s).wait = s.wait := by simp [loadProgram]
@[simp] theorem loadProgram_waitx : (loadProgram bytes s).waitx = s.waitx := by simp [loadProgram]
@[simp] theorem loadProgram_kprev : (loadProgram bytes s).kprev = s.kprev := by simp [loadProgram]
@[simp] theorem loadProgram_env : (loadProgram bytes s).env = s.env := by simp [loadProgram]
@[simp] theorem loadProgram_readV (y : Reg) : (loadProgram bytes s).readV y = s.readV y := by simp [loadProgram]
@[simp] theorem loadProgram_stackAt (j : Reg) : (loadProgram bytes s).stackAt j = s.stackAt j := by simp [loadProgram]
@[simp] theorem loadProgram_pixel (row : Fin 32) (col : Fin 64) : (loadProgram bytes s).pixel row col = s.pixel row col := by simp [loadProgram]

/-! ## loadFont -/

@[simp] theorem loadFont_mem : (loadFont s).mem = Memory.writeRange s.mem Config.fontBase fontTable := by simp [loadFont]
@[simp] theorem loadFont_v : (loadFont s).v = s.v := by simp [loadFont]
@[simp] theorem loadFont_i : (loadFont s).i = s.i := by simp [loadFont]
@[simp] theorem loadFont_pc : (loadFont s).pc = s.pc := by simp [loadFont]
@[simp] theorem loadFont_stack : (loadFont s).stack = s.stack := by simp [loadFont]
@[simp] theorem loadFont_sp : (loadFont s).sp = s.sp := by simp [loadFont]
@[simp] theorem loadFont_dt : (loadFont s).dt = s.dt := by simp [loadFont]
@[simp] theorem loadFont_st : (loadFont s).st = s.st := by simp [loadFont]
@[simp] theorem loadFont_key : (loadFont s).key = s.key := by simp [loadFont]
@[simp] theorem loadFont_fb : (loadFont s).fb = s.fb := by simp [loadFont]
@[simp] theorem loadFont_wait : (loadFont s).wait = s.wait := by simp [loadFont]
@[simp] theorem loadFont_waitx : (loadFont s).waitx = s.waitx := by simp [loadFont]
@[simp] theorem loadFont_kprev : (loadFont s).kprev = s.kprev := by simp [loadFont]
@[simp] theorem loadFont_env : (loadFont s).env = s.env := by simp [loadFont]
@[simp] theorem loadFont_readV (y : Reg) : (loadFont s).readV y = s.readV y := by simp [loadFont]
@[simp] theorem loadFont_stackAt (j : Reg) : (loadFont s).stackAt j = s.stackAt j := by simp [loadFont]
@[simp] theorem loadFont_pixel (row : Fin 32) (col : Fin 64) : (loadFont s).pixel row col = s.pixel row col := by simp [loadFont]

/-! ## initCore -/

@[simp] theorem initCore_mem : (initCore s).mem = s.mem := by simp [initCore]
@[simp] theorem initCore_v : (initCore s).v = s.v := by simp [initCore]
@[simp] theorem initCore_i : (initCore s).i = 0#16 := by simp [initCore]
@[simp] theorem initCore_pc : (initCore s).pc = 0x200#16 := by simp [initCore]
@[simp] theorem initCore_stack : (initCore s).stack = s.stack := by simp [initCore]
@[simp] theorem initCore_sp : (initCore s).sp = 0 := by simp [initCore]
@[simp] theorem initCore_dt : (initCore s).dt = s.dt := by simp [initCore]
@[simp] theorem initCore_st : (initCore s).st = s.st := by simp [initCore]
@[simp] theorem initCore_key : (initCore s).key = s.key := by simp [initCore]
@[simp] theorem initCore_fb : (initCore s).fb = s.fb := by simp [initCore]
@[simp] theorem initCore_wait : (initCore s).wait = false := by simp [initCore]
@[simp] theorem initCore_waitx : (initCore s).waitx = s.waitx := by simp [initCore]
@[simp] theorem initCore_kprev : (initCore s).kprev = s.kprev := by simp [initCore]
@[simp] theorem initCore_env : (initCore s).env = s.env := by simp [initCore]
@[simp] theorem initCore_readV (y : Reg) : (initCore s).readV y = s.readV y := by simp [initCore]
@[simp] theorem initCore_stackAt (j : Reg) : (initCore s).stackAt j = s.stackAt j := by simp [initCore]
@[simp] theorem initCore_pixel (row : Fin 32) (col : Fin 64) : (initCore s).pixel row col = s.pixel row col := by simp [initCore]
@[simp] theorem initCore_byteAt (a : Nat) : (initCore s).byteAt a = s.byteAt a := by simp [initCore]

/-! ## tickTimers -/

@[simp] theorem tickTimers_mem : (tickTimers s).mem = s.mem := by simp [tickTimers]
@[simp] theorem tickTimers_v : (tickTimers s).v = s.v := by simp [tickTimers]
@[simp] theorem tickTimers_i : (tickTimers s).i = s.i := by simp [tickTimers]
@[simp] theorem tickTimers_pc : (tickTimers s).pc = s.pc := by simp [tickTimers]
@[simp] theorem tickTimers_stack : (tickTimers s).stack = s.stack := by simp [tickTimers]
@[simp] theorem tickTimers_sp : (tickTimers s).sp = s.sp := by simp [tickTimers]
@[simp] theorem tickTimers_dt : (tickTimers s).dt = tickDown s.dt := by simp [tickTimers]
@[simp] theorem tickTimers_st : (tickTimers s).st = tickDown s.st := by simp [tickTimers]
@[simp] theorem tickTimers_key : (tickTimers s).key = s.key := by simp [tickTimers]
@[simp] theorem tickTimers_fb : (tickTimers s).fb = s.fb := by simp [tickTimers]
@[simp] theorem tickTimers_wait : (tickTimers s).wait = s.wait := by simp [tickTimers]
@[simp] theorem tickTimers_waitx : (tickTimers s).waitx = s.waitx := by simp [tickTimers]
@[simp] theorem tickTimers_kprev : (tickTimers s).kprev = s.kprev := by simp [tickTimers]
@[simp] theorem tickTimers_env : (tickTimers s).env = s.env := by simp [tickTimers]
@[simp] theorem tickTimers_readV (y : Reg) : (tickTimers s).readV y = s.readV y := by simp [tickTimers]
@[simp] theorem tickTimers_stackAt (j : Reg) : (tickTimers s).stackAt j = s.stackAt j := by simp [tickTimers]
@[simp] theorem tickTimers_pixel (row : Fin 32) (col : Fin 64) : (tickTimers s).pixel row col = s.pixel row col := by simp [tickTimers]
@[simp] theorem tickTimers_byteAt (a : Nat) : (tickTimers s).byteAt a = s.byteAt a := by simp [tickTimers]

/-! ## Values -/

/-- A tick takes one from a timer and stops at 0 (R161). -/
theorem tickDown_toNat (b : Byte) : (tickDown b).toNat = b.toNat - 1 := by
  unfold tickDown; split <;> bv_omega

/-- The font is 80 bytes (R184). -/
theorem length_fontTable : fontTable.length = 80 := rfl

/-- The bytes of memory after Load (R181). -/
theorem loadProgram_byteAt {s : State} {bytes : List Byte} (h : Memory.wf s.mem = true)
    (hl : 0x200 + bytes.length ≤ 4096) (b : Nat) :
    (loadProgram bytes s).byteAt b =
      if 0x200 ≤ b ∧ b < 0x200 + bytes.length then bytes.getD (b - 0x200) 0#8 else s.byteAt b :=
  State.byteAt_writeRange h 0x200 b bytes hl

/-- The bytes of memory after LoadFont (R184). -/
theorem loadFont_byteAt {s : State} (h : Memory.wf s.mem = true) (b : Nat) :
    (loadFont s).byteAt b = if b < 80 then fontTable.getD b 0#8 else s.byteAt b := by
  have hl := length_fontTable
  unfold loadFont
  generalize fontTable = font at hl ⊢
  have := State.byteAt_writeRange h 0 b font (by omega)
  simpa [hl] using this

/-- Load and LoadFont keep the canonical form of memory. -/
theorem wf_loadProgram {s : State} {bytes : List Byte} (h : Memory.wf s.mem = true)
    (hl : 0x200 + bytes.length ≤ 4096) : Memory.wf (loadProgram bytes s).mem = true :=
  Memory.wf_writeRange h hl

theorem wf_loadFont {s : State} (h : Memory.wf s.mem = true) : Memory.wf (loadFont s).mem = true := by
  have hl := length_fontTable
  unfold loadFont
  generalize fontTable = font at hl ⊢
  exact Memory.wf_writeRange (bytes := font) h (by simp [hl])

theorem loadFits_iff : loadFits bytes = true ↔ 0x200 + bytes.length ≤ 4096 := by
  simp [loadFits]

/-- What is read of the state after PowerOn is what is read of `State.reset` (R180). -/
theorem powerOn_eq : powerOn s = State.reset.setEnv s.env := rfl

end Sys2Proof.Machine
end

