-- ==== Sys2Proof/Laws/Exec.lean ====
section
/-!
SUPPORT. What each instruction answers, written over the setters: one equation per constructor, so that a proof about
an instruction starts from its equation and not from the definition of its meaning.
-/

namespace Sys2Proof.Machine

section exec
variable (s : State) (x y : Reg) (nn : Byte) (nnn : Imm12) (n : Nibble)

/-- The end of an instruction that goes on. -/
theorem done_next (t : State) : done t = .next (t.setPc (t.pc + 2#16)) := rfl

theorem exec_cls : exec .cls s = done (s.setFb Framebuffer.clear) := rfl
theorem exec_sys : exec (.sys nnn) s = .fault (.unimplementedInstruction (addr16 nnn)) := rfl
theorem exec_jp : exec (.jp nnn) s = .next (s.setPc (addr16 nnn)) := rfl
theorem exec_jpV0 : exec (.jpV0 nnn) s = .next (s.setPc (addr16 nnn + byte16 (s.readV 0))) := rfl

theorem exec_ret_empty (h : s.sp.val = 0) : exec .ret s = .fault .stackUnderflow := by
  simp [exec, execRet, State.pop_empty h]

theorem exec_ret_succ {k : Nat} (h : s.sp.val = k + 1) :
    exec .ret s = .next ((s.setSp ⟨k, by omega⟩).setPc (s.stackAt ⟨k, by omega⟩ + 2#16)) := by
  simp [exec, execRet, State.pop_of_succ h]

theorem exec_call_full (h : s.sp.val = 16) : exec (.call nnn) s = .fault .stackOverflow := by
  simp [exec, execCall, State.push_full _ h]

theorem exec_call_lt (h : s.sp.val < 16) :
    exec (.call nnn) s =
      .next (((s.writeStack ⟨s.sp.val, h⟩ s.pc).setSp ⟨s.sp.val + 1, Nat.succ_lt_succ h⟩).setPc (addr16 nnn)) := by
  simp [exec, execCall, State.push_of_lt _ h]

theorem exec_seImm : exec (.seImm x nn) s = skipIf (s.readV x == nn) s := rfl
theorem exec_sneImm : exec (.sneImm x nn) s = skipIf (s.readV x != nn) s := rfl
theorem exec_seReg : exec (.seReg x y) s = skipIf (s.readV x == s.readV y) s := rfl
theorem exec_sneReg : exec (.sneReg x y) s = skipIf (s.readV x != s.readV y) s := rfl
theorem exec_skp : exec (.skp x) s = skipIf (s.key[lowNibble (s.readV x)]) s := rfl
theorem exec_sknp : exec (.sknp x) s = skipIf (!s.key[lowNibble (s.readV x)]) s := rfl

theorem exec_ldImm : exec (.ldImm x nn) s = done (s.writeV x nn) := rfl
theorem exec_addImm : exec (.addImm x nn) s = done (s.writeV x (s.readV x + nn)) := rfl
theorem exec_ldReg : exec (.ldReg x y) s = done (s.writeV x (s.readV y)) := rfl
theorem exec_or : exec (.or x y) s = done (s.writeV x (s.readV x ||| s.readV y)) := rfl
theorem exec_and : exec (.and x y) s = done (s.writeV x (s.readV x &&& s.readV y)) := rfl
theorem exec_xor : exec (.xor x y) s = done (s.writeV x (s.readV x ^^^ s.readV y)) := rfl
theorem exec_rnd : exec (.rnd x nn) s = done (s.writeV x (s.env.rnd &&& nn)) := rfl

/-- The state 8xy4, 8xy5, 8xy6, 8xy7 and 8xyE compute their result in: VF already holds the flag (R8). -/
theorem exec_addReg (f : Byte) (h : carryFlag (s.readV x) (s.readV y) = f) :
    exec (.addReg x y) s =
      done ((s.writeV 15 f).writeV x ((s.writeV 15 f).readV x + (s.writeV 15 f).readV y)) := by
  subst h; rfl

theorem exec_sub (f : Byte) (h : greaterFlag (s.readV x) (s.readV y) = f) :
    exec (.sub x y) s =
      done ((s.writeV 15 f).writeV x ((s.writeV 15 f).readV x - (s.writeV 15 f).readV y)) := by
  subst h; rfl

theorem exec_subn (f : Byte) (h : greaterFlag (s.readV y) (s.readV x) = f) :
    exec (.subn x y) s =
      done ((s.writeV 15 f).writeV x ((s.writeV 15 f).readV y - (s.writeV 15 f).readV x)) := by
  subst h; rfl

theorem exec_shr (f : Byte) (h : lowBitFlag (s.readV y) = f) :
    exec (.shr x y) s =
      done (((s.writeV 15 f).writeV y ((s.writeV 15 f).readV y >>> 1)).writeV x
        ((s.writeV 15 f).readV y >>> 1)) := by
  subst h; rfl

theorem exec_shl (f : Byte) (h : highBitFlag (s.readV y) = f) :
    exec (.shl x y) s =
      done (((s.writeV 15 f).writeV y ((s.writeV 15 f).readV y <<< 1)).writeV x
        ((s.writeV 15 f).readV y <<< 1)) := by
  subst h; rfl

theorem exec_ldI : exec (.ldI nnn) s = done (s.setI (addr16 nnn)) := rfl
theorem exec_addI : exec (.addI x) s = done (s.setI (s.i + byte16 (s.readV x))) := rfl
theorem exec_ldF : exec (.ldF x) s = done (s.setI (fontAddr (lowNibble (s.readV x)))) := rfl

theorem exec_ldB : exec (.ldB x) s =
    if s.i.toNat + 3 ≤ 4096 then
      done (s.setMem (Memory.writeRange s.mem s.i.toNat (decimalDigits (s.readV x))))
    else .fault .memoryOutOfBounds := by
  simp only [exec, execLdB, State.storeBytes_eq, State.indexAddr, length_decimalDigits]
  by_cases h : s.i.toNat + 3 ≤ 4096 <;> simp [h]

theorem exec_ldMemVx : exec (.ldMemVx x) s =
    if s.i.toNat + (x.val + 1) ≤ 4096 then
      done (s.setMem (Memory.writeRange s.mem s.i.toNat (s.regsUpTo x)))
    else .fault .memoryOutOfBounds := by
  simp only [exec, execLdMemVx, State.storeBytes_eq, State.indexAddr, State.length_regsUpTo]
  by_cases h : s.i.toNat + (x.val + 1) ≤ 4096 <;> simp [h]

theorem exec_ldVxMem : exec (.ldVxMem x) s =
    if s.i.toNat + (x.val + 1) ≤ 4096 then
      done (s.writeRegs (Memory.readRange s.mem s.i.toNat (x.val + 1)))
    else .fault .memoryOutOfBounds := by
  simp only [exec, execLdVxMem, State.loadBytes_eq, State.indexAddr]
  by_cases h : s.i.toNat + (x.val + 1) ≤ 4096 <;> simp [h]

/-- The sprite rows Dxyn reads. -/
def State.spriteBytes (n : Nibble) : List Byte := Memory.readRange s.mem s.i.toNat n.toNat

/-- The lit pixels Dxyn draws. -/
def State.drawnPixels : List (Fin 32 × Fin 64) :=
  spritePixels (s.readV x).toNat (s.readV y).toNat (s.spriteBytes n)

theorem exec_drw : exec (.drw x y n) s =
    if n.toNat = 0 ∨ s.i.toNat + n.toNat ≤ 4096 then
      done ((s.setFb (drawPixels s.fb (s.drawnPixels x y n)).1).writeV 15
        (erasedFlag (drawPixels s.fb (s.drawnPixels x y n)).2))
    else .fault .memoryOutOfBounds := by
  simp only [exec, execDrw, State.loadBytes_eq, State.indexAddr]
  by_cases h : n.toNat = 0 ∨ s.i.toNat + n.toNat ≤ 4096
  · rw [if_pos h, if_pos h]; rfl
  · rw [if_neg h, if_neg h]; rfl

theorem exec_ldVxDt : exec (.ldVxDt x) s = done (s.writeV x s.dt) := rfl
theorem exec_ldVxK : exec (.ldVxK x) s = .next ((s.setWaitx x).snapshotKeys.setWait true) := rfl
theorem exec_ldDtVx : exec (.ldDtVx x) s = done (s.setDt (s.readV x)) := rfl
theorem exec_ldStVx : exec (.ldStVx x) s = done (s.setSt (s.readV x)) := rfl

end exec

/-! ## What Dxyn does to each pixel -/

theorem State.length_spriteBytes (s : State) (n : Nibble) : (s.spriteBytes n).length = n.toNat := by
  simp [State.spriteBytes]

theorem State.drawnPixels_nodup (s : State) (x y : Reg) (n : Nibble) : (s.drawnPixels x y n).Nodup :=
  spritePixels_nodup _ _ _ (by rw [State.length_spriteBytes]; have := n.isLt; omega)

/-- A pixel is drawn exactly if a lit bit of the sprite falls on it, each coordinate wrapped by itself. -/
theorem State.mem_drawnPixels (s : State) (x y : Reg) (n : Nibble) (row : Fin 32) (col : Fin 64) :
    (row, col) ∈ s.drawnPixels x y n ↔
      ∃ r < n.toNat, ∃ c < 8, (s.byteAt (s.i.toNat + r)).getLsbD (7 - c) = true ∧
        row.val = ((s.readV y).toNat + r) % 32 ∧ col.val = ((s.readV x).toNat + c) % 64 := by
  rw [State.drawnPixels, mem_spritePixels, State.length_spriteBytes]
  refine exists_congr fun r => and_congr_right fun hr => exists_congr fun c => and_congr_right fun _ => ?_
  rw [State.spriteBytes, Memory.getD_readRange, if_pos hr]
  refine and_congr Iff.rfl ?_
  simp [wrapPixel, Prod.ext_iff, Fin.ext_iff, Fin.ofNat]

/-- Each drawn pixel is flipped once and no other changes. -/
theorem State.drawn_pixel (s : State) (x y : Reg) (n : Nibble) (row : Fin 32) (col : Fin 64) :
    (drawPixels s.fb (s.drawnPixels x y n)).1[row][col] =
      if (row, col) ∈ s.drawnPixels x y n then !s.pixel row col else s.pixel row col :=
  (drawPixels_spec _ (s.drawnPixels_nodup x y n) s.fb false).1 row col

/-- A pixel was erased exactly if one of the drawn pixels was lit. -/
theorem State.drawn_erased (s : State) (x y : Reg) (n : Nibble) :
    (drawPixels s.fb (s.drawnPixels x y n)).2 = true ↔
      ∃ row col, (row, col) ∈ s.drawnPixels x y n ∧ s.pixel row col = true := by
  rw [drawPixels, (drawPixels_spec _ (s.drawnPixels_nodup x y n) s.fb false).2]
  simp [State.pixel]

/-! ## Everything an instruction can do -/

/-- The next state of an instruction that has one: a skip moves PC by 2 or 4, every other instruction has one next
state, and CALL, RET and the transfers have one only where their check passes. -/
def NextIs (i : Instr) (s t : State) : Prop :=
  match i with
  | .cls => t = (s.setFb Framebuffer.clear).advance
  | .ret => ∃ (k : Nat) (h : s.sp.val = k + 1),
      t = (s.setSp ⟨k, by omega⟩).setPc (s.stackAt ⟨k, by omega⟩ + 2#16)
  | .sys _ => False
  | .jp nnn => t = s.setPc (addr16 nnn)
  | .call nnn => ∃ h : s.sp.val < 16,
      t = ((s.writeStack ⟨s.sp.val, h⟩ s.pc).setSp ⟨s.sp.val + 1, Nat.succ_lt_succ h⟩).setPc (addr16 nnn)
  | .seImm _ _ | .sneImm _ _ | .seReg _ _ | .sneReg _ _ | .skp _ | .sknp _ =>
      t = s.setPc (s.pc + 2#16) ∨ t = s.setPc (s.pc + 4#16)
  | .ldImm x nn => t = (s.writeV x nn).advance
  | .addImm x nn => t = (s.writeV x (s.readV x + nn)).advance
  | .ldReg x y => t = (s.writeV x (s.readV y)).advance
  | .or x y => t = (s.writeV x (s.readV x ||| s.readV y)).advance
  | .and x y => t = (s.writeV x (s.readV x &&& s.readV y)).advance
  | .xor x y => t = (s.writeV x (s.readV x ^^^ s.readV y)).advance
  | .addReg x _ | .sub x _ | .subn x _ => ∃ f r, t = ((s.writeV 15 f).writeV x r).advance
  | .shr x y | .shl x y => ∃ f r, t = (((s.writeV 15 f).writeV y r).writeV x r).advance
  | .ldI nnn => t = (s.setI (addr16 nnn)).advance
  | .jpV0 nnn => t = s.setPc (addr16 nnn + byte16 (s.readV 0))
  | .rnd x nn => t = (s.writeV x (s.env.rnd &&& nn)).advance
  | .drw x y n => t = ((s.setFb (drawPixels s.fb (s.drawnPixels x y n)).1).writeV 15
      (erasedFlag (drawPixels s.fb (s.drawnPixels x y n)).2)).advance
  | .ldVxDt x => t = (s.writeV x s.dt).advance
  | .ldVxK x => t = (s.setWaitx x).snapshotKeys.setWait true
  | .ldDtVx x => t = (s.setDt (s.readV x)).advance
  | .ldStVx x => t = (s.setSt (s.readV x)).advance
  | .addI x => t = (s.setI (s.i + byte16 (s.readV x))).advance
  | .ldF x => t = (s.setI (fontAddr (lowNibble (s.readV x)))).advance
  | .ldB x => s.i.toNat + 3 ≤ 4096 ∧
      t = (s.setMem (Memory.writeRange s.mem s.i.toNat (decimalDigits (s.readV x)))).advance
  | .ldMemVx x => s.i.toNat + (x.val + 1) ≤ 4096 ∧
      t = (s.setMem (Memory.writeRange s.mem s.i.toNat (s.regsUpTo x))).advance
  | .ldVxMem x => s.i.toNat + (x.val + 1) ≤ 4096 ∧
      t = (s.writeRegs (Memory.readRange s.mem s.i.toNat (x.val + 1))).advance

theorem skipIf_next {c : Bool} {s t : State} (h : skipIf c s = .next t) :
    t = s.setPc (s.pc + 2#16) ∨ t = s.setPc (s.pc + 4#16) := by
  cases c <;> cases h <;> simp

/-- EVERYTHING AN INSTRUCTION CAN DO, said once. -/
theorem exec_next {i : Instr} {s t : State} (h : exec i s = .next t) : NextIs i s t := by
  cases i
  case ret =>
    by_cases h0 : s.sp.val = 0
    · rw [exec_ret_empty s h0] at h; cases h
    · have hk : s.sp.val = (s.sp.val - 1) + 1 := by omega
      rw [exec_ret_succ s hk] at h; cases h
      exact ⟨_, hk, rfl⟩
  case call nnn =>
    by_cases h0 : s.sp.val < 16
    · rw [exec_call_lt s nnn h0] at h; cases h; exact ⟨h0, rfl⟩
    · rw [exec_call_full s nnn (by omega)] at h; cases h
  case ldB x => rw [exec_ldB] at h; split at h <;> cases h; exact ⟨‹_›, rfl⟩
  case ldMemVx x => rw [exec_ldMemVx] at h; split at h <;> cases h; exact ⟨‹_›, rfl⟩
  case ldVxMem x => rw [exec_ldVxMem] at h; split at h <;> cases h; exact ⟨‹_›, rfl⟩
  case drw x y n => rw [exec_drw] at h; split at h <;> cases h; exact rfl
  case seImm | sneImm | seReg | sneReg | skp | sknp => exact skipIf_next h
  case addReg | sub | subn | shr | shl => cases h; exact ⟨_, _, rfl⟩
  all_goals cases h
  all_goals rfl

end Sys2Proof.Machine
end

