-- ==== Sys2Proof/Laws/PerInstr.lean ====
section
/-!
SUPPORT. Laws of the instruction as syntax, one lemma per constructor.
-/

namespace Sys2Proof.Laws.EncodeFollowsTable

/-- The encoding of the instruction has the fixed digits of its row of the opcode table (R65): under the row's mask it
is the row's match. -/
def Statement (i : Instr) : Prop := encode i &&& i.row.mask = i.row.pattern

theorem cls : Statement .cls := rfl
theorem ret : Statement .ret := rfl
theorem sys (nnn : Imm12) : Statement (.sys nnn) := encodeNNN_mask _ _
theorem jp (nnn : Imm12) : Statement (.jp nnn) := encodeNNN_mask _ _
theorem call (nnn : Imm12) : Statement (.call nnn) := encodeNNN_mask _ _
theorem seImm (x : Reg) (nn : Byte) : Statement (.seImm x nn) := encodeXNN_mask _ _ _
theorem sneImm (x : Reg) (nn : Byte) : Statement (.sneImm x nn) := encodeXNN_mask _ _ _
theorem seReg (x y : Reg) : Statement (.seReg x y) := encodeXYN_mask_low _ _ _ _
theorem ldImm (x : Reg) (nn : Byte) : Statement (.ldImm x nn) := encodeXNN_mask _ _ _
theorem addImm (x : Reg) (nn : Byte) : Statement (.addImm x nn) := encodeXNN_mask _ _ _
theorem ldReg (x y : Reg) : Statement (.ldReg x y) := encodeXYN_mask_low _ _ _ _
theorem or (x y : Reg) : Statement (.or x y) := encodeXYN_mask_low _ _ _ _
theorem and (x y : Reg) : Statement (.and x y) := encodeXYN_mask_low _ _ _ _
theorem xor (x y : Reg) : Statement (.xor x y) := encodeXYN_mask_low _ _ _ _
theorem addReg (x y : Reg) : Statement (.addReg x y) := encodeXYN_mask_low _ _ _ _
theorem sub (x y : Reg) : Statement (.sub x y) := encodeXYN_mask_low _ _ _ _
theorem shr (x y : Reg) : Statement (.shr x y) := encodeXYN_mask_low _ _ _ _
theorem subn (x y : Reg) : Statement (.subn x y) := encodeXYN_mask_low _ _ _ _
theorem shl (x y : Reg) : Statement (.shl x y) := encodeXYN_mask_low _ _ _ _
theorem sneReg (x y : Reg) : Statement (.sneReg x y) := encodeXYN_mask_low _ _ _ _
theorem ldI (nnn : Imm12) : Statement (.ldI nnn) := encodeNNN_mask _ _
theorem jpV0 (nnn : Imm12) : Statement (.jpV0 nnn) := encodeNNN_mask _ _
theorem rnd (x : Reg) (nn : Byte) : Statement (.rnd x nn) := encodeXNN_mask _ _ _
theorem drw (x y : Reg) (n : Nibble) : Statement (.drw x y n) := encodeXYN_mask _ _ _ _
theorem skp (x : Reg) : Statement (.skp x) := encodeXNN_mask_low _ _ _
theorem sknp (x : Reg) : Statement (.sknp x) := encodeXNN_mask_low _ _ _
theorem ldVxDt (x : Reg) : Statement (.ldVxDt x) := encodeXNN_mask_low _ _ _
theorem ldVxK (x : Reg) : Statement (.ldVxK x) := encodeXNN_mask_low _ _ _
theorem ldDtVx (x : Reg) : Statement (.ldDtVx x) := encodeXNN_mask_low _ _ _
theorem ldStVx (x : Reg) : Statement (.ldStVx x) := encodeXNN_mask_low _ _ _
theorem addI (x : Reg) : Statement (.addI x) := encodeXNN_mask_low _ _ _
theorem ldF (x : Reg) : Statement (.ldF x) := encodeXNN_mask_low _ _ _
theorem ldB (x : Reg) : Statement (.ldB x) := encodeXNN_mask_low _ _ _
theorem ldMemVx (x : Reg) : Statement (.ldMemVx x) := encodeXNN_mask_low _ _ _
theorem ldVxMem (x : Reg) : Statement (.ldVxMem x) := encodeXNN_mask_low _ _ _

end Sys2Proof.Laws.EncodeFollowsTable
end

