-- ==== Sys2Proof/Laws/Step.lean ====
section
/-!
SUPPORT. The step in cases, once: which operation is next, and what a Step does on a waiting machine, on a PC that
cannot be fetched, on a word that is no instruction, and on one that is (30_encoding.md R64).
-/

namespace Sys2Proof.Machine

/-! ## The next operation -/

theorem step_scripted_step {s : State} {rnd : Byte} {rest : List Operation}
    (h : s.env.script = .step rnd :: rest) :
    step s = stepWith rnd (s.setEnv { s.env with script := rest }) := by
  simp [step, nextOperation, h]

theorem step_scripted_driver {s : State} {d : DriverOp} {rest : List Operation}
    (h : s.env.script = .driver d :: rest) :
    step s = .next (driverMove d (s.setEnv { s.env with script := rest })).1 := by
  simp [step, nextOperation, h]

theorem step_unscripted {s : State} (h : s.env.script = []) :
    step s = stepWith (Config.randomByte s.env.draws) (s.setEnv { s.env with draws := s.env.draws + 1 }) := by
  simp [step, nextOperation, h]

/-! ## The fetch -/

/-- The opcode at PC. -/
def State.wordAtPc (s : State) : Word := composeWord (s.byteAt s.pc.toNat) (s.byteAt (s.pc.toNat + 1))

theorem fetches_iff (s : State) (w : Word) :
    Fetches s w ↔ s.wait = false ∧ s.pc.toNat + 2 ≤ 4096 ∧ w = s.wordAtPc := by
  unfold Fetches
  refine and_congr_right fun _ => and_congr (by omega) ?_
  rw [State.wordAtPc, ← BitVec.toNat_inj, composeWord_toNat]

theorem State.fetchDecode_eq (s : State) :
    s.fetchDecode =
      if s.pc.toNat + 2 ≤ 4096 then
        match decodeWord s.wordAtPc with
        | some i => .ok i
        | none => .error (.unimplementedInstruction s.wordAtPc)
      else .error .memoryOutOfBounds := by
  unfold State.fetchDecode State.fetchBytes
  rw [State.loadBytes_eq]
  by_cases h : s.pc.toNat + 2 ≤ 4096
  · rw [if_pos (Or.inr h), if_pos h]
    cases hd : decodeWord s.wordAtPc with
    | none =>
      have hd' : decodeWord (composeWord (Memory.read s.mem s.pc.toNat) (Memory.read s.mem (s.pc.toNat + 1))) = none :=
        hd
      simp [Memory.readRange, decode, hd', rejectFault, State.wordAtPc, State.byteAt]
    | some i =>
      have hd' : decodeWord (composeWord (Memory.read s.mem s.pc.toNat) (Memory.read s.mem (s.pc.toNat + 1))) = some i :=
        hd
      simp [Memory.readRange, decode, hd']
  · rw [if_neg (by omega), if_neg h]

/-! ## The Step -/

theorem stepWith_waiting {s : State} (rnd : Byte) (h : s.wait = true) : stepWith rnd s = .next (resumeWait s) := by
  simp [stepWith, h]

theorem stepWith_fetches {s : State} {w : Word} {i : Instr} (rnd : Byte) (h : Fetches s w)
    (hd : decodeWord w = some i) : stepWith rnd s = exec i (s.supplyRnd rnd) := by
  obtain ⟨hw, hp, rfl⟩ := (fetches_iff s w).mp h
  simp [stepWith, hw, State.fetchDecode_eq, hp, hd]

theorem stepWith_no_instruction {s : State} {w : Word} (rnd : Byte) (h : Fetches s w)
    (hd : decodeWord w = none) : stepWith rnd s = .fault (.unimplementedInstruction w) := by
  obtain ⟨hw, hp, rfl⟩ := (fetches_iff s w).mp h
  simp [stepWith, hw, State.fetchDecode_eq, hp, hd, raise]

theorem stepWith_out_of_bounds {s : State} (rnd : Byte) (hw : s.wait = false) (hp : 4095 < s.pc.toNat + 1) :
    stepWith rnd s = .fault .memoryOutOfBounds := by
  have : ¬ s.pc.toNat + 2 ≤ 4096 := by omega
  simp [stepWith, hw, State.fetchDecode_eq, this, raise]

/-- EVERYTHING A STEP CAN DO. -/
theorem stepWith_cases (s : State) (rnd : Byte) :
    (s.wait = true ∧ stepWith rnd s = .next (resumeWait s)) ∨
      (s.wait = false ∧ 4095 < s.pc.toNat + 1 ∧ stepWith rnd s = .fault .memoryOutOfBounds) ∨
      (Fetches s s.wordAtPc ∧ decodeWord s.wordAtPc = none ∧
        stepWith rnd s = .fault (.unimplementedInstruction s.wordAtPc)) ∨
      (∃ i, Fetches s s.wordAtPc ∧ decodeWord s.wordAtPc = some i ∧
        stepWith rnd s = exec i (s.supplyRnd rnd)) := by
  cases hw : s.wait with
  | true => exact .inl ⟨rfl, stepWith_waiting rnd hw⟩
  | false =>
    by_cases hp : s.pc.toNat + 2 ≤ 4096
    · have hf : Fetches s s.wordAtPc := (fetches_iff s _).mpr ⟨hw, hp, rfl⟩
      cases hd : decodeWord s.wordAtPc with
      | none => exact .inr (.inr (.inl ⟨hf, rfl, stepWith_no_instruction rnd hf hd⟩))
      | some i => exact .inr (.inr (.inr ⟨i, hf, rfl, stepWith_fetches rnd hf hd⟩))
    · exact .inr (.inl ⟨rfl, by omega, stepWith_out_of_bounds rnd hw (by omega)⟩)

/-- EVERYTHING THE HOST'S STEP CAN DO: a Step with some byte, or a driver operation, on the same state but for the
environment's side. -/
theorem step_cases (s : State) :
    (∃ rnd e, step s = stepWith rnd (s.setEnv e)) ∨ (∃ d e, step s = .next (driverMove d (s.setEnv e)).1) := by
  cases h : s.env.script with
  | nil => exact .inl ⟨_, _, step_unscripted h⟩
  | cons op rest =>
    cases op with
    | step rnd => exact .inl ⟨_, _, step_scripted_step h⟩
    | driver d => exact .inr ⟨_, _, step_scripted_driver h⟩

end Sys2Proof.Machine
end

