-- ==== Sys2Proof/Tests/Slice0.lean ====
section
/-!
SUPPORT. Tests of the model. Every expected value is the spec's: a row or program of 95_test_vectors.md (its number
stands in the comment), a worked example of a rule, or the encoding of 30_encoding.md R65. Then a concrete witness for
the hypotheses of each obligation that has any.
-/

namespace Sys2Proof.Tests

open Sys2Proof Sys2Proof.Machine

/-! ## Helpers -/

/-- The PowerOn state with some registers set. -/
def regs (l : List (Reg × Byte)) : State := l.foldl (fun s p => s.writeV p.1 p.2) State.reset

/-- The PowerOn state with registers set and bytes stored at `a` and on. -/
def regsMem (l : List (Reg × Byte)) (a : Nat) (bytes : List Byte) : State :=
  (regs l).setMem (Memory.writeRange (regs l).mem a bytes)

/-- One Step(0x00) on the word `w` placed where it is fetched. -/
def run (w : Nat) (s : State) : Result := stepWith 0#8 (s.withFetchWord 16 w)

/-- A field of the next state, none where there is no next state. -/
def look {α : Type} (f : State → α) (r : Result) : Option α :=
  match r with
  | .next t => some (f t)
  | .fault _ => none
  | .refused _ => none

/-- The error, none where there is no error. -/
def errorOf (r : Result) : Option Fault :=
  match r with
  | .fault f => some f
  | .next _ => none
  | .refused _ => none

/-- Registers `x` and `y` and PC of the next state, as numbers. -/
def two (x y : Reg) (r : Result) : Option (Nat × Nat × Nat) :=
  look (fun t => ((t.readV x).toNat, (t.readV y).toNat, t.pc.toNat)) r

/-- PC of the next state. -/
def pcOf (r : Result) : Option Nat := look (fun t => t.pc.toNat) r

/-- I of the next state. -/
def iOf (r : Result) : Option Nat := look (fun t => t.i.toNat) r

/-- `n` bytes at `a` of the next state. -/
def bytesOf (a n : Nat) (r : Result) : Option (List Byte) := look (fun t => Memory.readRange t.mem a n) r

/-! ## Well-formedness: the one check, with the terms it refuses (R65) -/

theorem test_wf_refuses_sys_cls : Instr.wf (.sys 0x0E0#12) = false := by decide

theorem test_wf_refuses_sys_ret : Instr.wf (.sys 0x0EE#12) = false := by decide

theorem test_wf_accepts_sys : Instr.wf (.sys 0x0E1#12) = true ∧ Instr.wf (.sys 0x000#12) = true := by decide

/-! ## Decoding: a word of every constructor, written from the encoding lines of the rules -/

/- The spec's encodings put op in bits 15 to 12, x in 11 to 8, y in 7 to 4, n in 3 to 0 (R61). -/

theorem test_decode_cls : decodeWord 0b0000000011100000#16 = some .cls := by decide

theorem test_decode_ret : decodeWord 0b0000000011101110#16 = some .ret := by decide

theorem test_decode_sys : decodeWord 0b0000000011100001#16 = some (.sys 0x0E1#12) := by decide

theorem test_decode_jp : decodeWord 0b0001010100000000#16 = some (.jp 0x500#12) := by decide

theorem test_decode_call : decodeWord 0b0010001000001000#16 = some (.call 0x208#12) := by decide

theorem test_decode_seImm : decodeWord 0b0011000100010000#16 = some (.seImm 1 0x10#8) := by decide

theorem test_decode_sneImm : decodeWord 0b0100000100010000#16 = some (.sneImm 1 0x10#8) := by decide

theorem test_decode_seReg : decodeWord 0b0101001000110000#16 = some (.seReg 2 3) := by decide

theorem test_decode_ldImm : decodeWord 0b0110101000101011#16 = some (.ldImm 10 0x2B#8) := by decide

theorem test_decode_addImm : decodeWord 0b0111000100000010#16 = some (.addImm 1 2#8) := by decide

theorem test_decode_ldReg : decodeWord 0b1000000100100000#16 = some (.ldReg 1 2) := by decide

theorem test_decode_or : decodeWord 0b1000000100100001#16 = some (.or 1 2) := by decide

theorem test_decode_and : decodeWord 0b1000000100100010#16 = some (.and 1 2) := by decide

theorem test_decode_xor : decodeWord 0b1000000100100011#16 = some (.xor 1 2) := by decide

theorem test_decode_addReg : decodeWord 0b1000000100100100#16 = some (.addReg 1 2) := by decide

theorem test_decode_sub : decodeWord 0b1000000100100101#16 = some (.sub 1 2) := by decide

theorem test_decode_shr : decodeWord 0b1000000100100110#16 = some (.shr 1 2) := by decide

theorem test_decode_subn : decodeWord 0b1000000100100111#16 = some (.subn 1 2) := by decide

theorem test_decode_shl : decodeWord 0b1000000100101110#16 = some (.shl 1 2) := by decide

theorem test_decode_sneReg : decodeWord 0b1001001000110000#16 = some (.sneReg 2 3) := by decide

theorem test_decode_ldI : decodeWord 0b1010001100000000#16 = some (.ldI 0x300#12) := by decide

theorem test_decode_jpV0 : decodeWord 0b1011001100000000#16 = some (.jpV0 0x300#12) := by decide

theorem test_decode_rnd : decodeWord 0b1100001100001111#16 = some (.rnd 3 0x0F#8) := by decide

theorem test_decode_drw : decodeWord 0b1101000100100101#16 = some (.drw 1 2 5#4) := by decide

theorem test_decode_skp : decodeWord 0b1110001110011110#16 = some (.skp 3) := by decide

theorem test_decode_sknp : decodeWord 0b1110001110100001#16 = some (.sknp 3) := by decide

theorem test_decode_ldVxDt : decodeWord 0b1111001000000111#16 = some (.ldVxDt 2) := by decide

theorem test_decode_ldVxK : decodeWord 0b1111001100001010#16 = some (.ldVxK 3) := by decide

theorem test_decode_ldDtVx : decodeWord 0b1111001000010101#16 = some (.ldDtVx 2) := by decide

theorem test_decode_ldStVx : decodeWord 0b1111001000011000#16 = some (.ldStVx 2) := by decide

theorem test_decode_addI : decodeWord 0b1111001000011110#16 = some (.addI 2) := by decide

theorem test_decode_ldF : decodeWord 0b1111000000101001#16 = some (.ldF 0) := by decide

theorem test_decode_ldB : decodeWord 0b1111000000110011#16 = some (.ldB 0) := by decide

theorem test_decode_ldMemVx : decodeWord 0b1111001001010101#16 = some (.ldMemVx 2) := by decide

theorem test_decode_ldVxMem : decodeWord 0b1111001001100101#16 = some (.ldVxMem 2) := by decide

/-- D0.7 to D0.15: words that match no pattern. -/
theorem test_decode_reserved :
    [0x5121#16, 0x8128#16, 0x812F#16, 0x9121#16, 0xE19F#16, 0xF100#16, 0xF175#16].map decodeWord =
      [none, none, none, none, none, none, none] := by decide

theorem test_decode_truncated : decode [0x12#8] = .error .truncated := by decide

theorem test_decode_by_name : decode [0x51#8, 0x21#8, 0x00#8] = .error (.unimplemented 0x5121#16) := by decide

theorem test_decode_rest : decode [0x12#8, 0x00#8, 0xAB#8] = .ok (.jp 0x200#12, [0xAB#8]) := by decide

/-- The table numbers the bits of the one word; bits above nbits are 0. -/
theorem test_decodeTableWord :
    decodeTableWord 16 0xD125 = some (.drw 1 2 5#4) ∧ decodeTableWord 8 0xD1E0 = some .cls := by decide

/-! ## Control transfer and skips -/

/-- R80's example. -/
theorem test_sys_raises : errorOf (run 0x0234 State.reset) = some (.unimplementedInstruction 0x0234#16) := by decide

/-- D6.2. -/
theorem test_reset_memory_raises :
    errorOf (stepWith 0#8 State.reset) = some (.unimplementedInstruction 0x0000#16) := by decide

/-- D2.6: two past the call, the entry stale. -/
theorem test_ret :
    look (fun t => (t.sp.val, t.pc.toNat, (t.stackAt 0).toNat))
      (run 0x00EE ((State.reset.writeStack 0 0x0204#16).setSp 1)) = some (0, 0x206, 0x204) := by decide

/-- D2.7. -/
theorem test_ret_empty : errorOf (run 0x00EE State.reset) = some .stackUnderflow := by decide

/-- D2.1. -/
theorem test_jp_self : pcOf (run 0x1200 State.reset) = some 0x200 := by decide

/-- S7a. -/
theorem test_jp : pcOf (run 0x1500 State.reset) = some 0x500 := by decide

/-- D2.4: the address of the call itself. -/
theorem test_call :
    look (fun t => (t.sp.val, t.pc.toNat, (t.stackAt 0).toNat)) (run 0x2208 (State.reset.setPc 0x204#16)) =
      some (1, 0x208, 0x204) := by decide

/-- D2.5. -/
theorem test_call_full : errorOf (run 0x2300 (State.reset.setSp 16)) = some .stackOverflow := by decide

/-- D2.8, V0 and not V3. -/
theorem test_jpV0 : pcOf (run 0xB300 (regs [(0, 4#8), (3, 9#8)])) = some 0x304 := by decide

/-- D2.9: not reduced to 12 bits. -/
theorem test_jpV0_large : pcOf (run 0xBFFF (regs [(0, 0xFF#8)])) = some 0x10FE := by decide

/-- D2.10, D2.11. -/
theorem test_seImm :
    (pcOf (run 0x3110 (regs [(1, 16#8)])), pcOf (run 0x3110 (regs [(1, 15#8)]))) = (some 0x204, some 0x202) := by decide

/-- D2.12, D2.13. -/
theorem test_sneImm :
    (pcOf (run 0x4110 (regs [(1, 15#8)])), pcOf (run 0x4110 (regs [(1, 16#8)]))) = (some 0x204, some 0x202) := by decide

/-- D2.14, D2.15. -/
theorem test_seReg :
    (pcOf (run 0x5230 (regs [(2, 7#8), (3, 7#8)])), pcOf (run 0x5230 (regs [(2, 7#8), (3, 8#8)]))) =
      (some 0x204, some 0x202) := by decide

/-- D2.17, D2.18. -/
theorem test_sneReg :
    (pcOf (run 0x9230 (regs [(2, 7#8), (3, 8#8)])), pcOf (run 0x9230 (regs [(2, 7#8), (3, 7#8)]))) =
      (some 0x204, some 0x202) := by decide

/-- D2.19. -/
theorem test_skip_at_top : pcOf (run 0x3000 (State.reset.setPc 0xFFE#16)) = some 0x1002 := by decide

/-- D2.20. -/
theorem test_fetch_past_top :
    errorOf (stepWith 0#8 (State.reset.setPc 0xFFF#16)) = some .memoryOutOfBounds := by decide

/-- D2.3: an odd PC is fetched as it stands, high byte first. -/
theorem test_fetch_odd_pc :
    errorOf (stepWith 0#8 ((regsMem [] 0x201 [0x01#8, 0x63#8]).setPc 0x201#16)) =
      some (.unimplementedInstruction 0x0163#16) := by decide

/-! ## Arithmetic -/

/-- D1.1. -/
theorem test_ldImm : two 10 15 (run 0x6A2B (regs [])) = some (43, 0, 0x202) := by decide

/-- D1.2. -/
theorem test_ldImm_flag : two 15 0 (run 0x6F01 (regs [])) = some (1, 0, 0x202) := by decide

/-- D1.3: wraps, no flag. -/
theorem test_addImm : two 1 15 (run 0x7102 (regs [(1, 255#8)])) = some (1, 0, 0x202) := by decide

/-- D1.4. -/
theorem test_addImm_flag : two 15 0 (run 0x7F01 (regs [(15, 255#8)])) = some (0, 0, 0x202) := by decide

/-- D1.5. -/
theorem test_ldReg : two 1 2 (run 0x8120 (regs [(2, 124#8)])) = some (124, 124, 0x202) := by decide

/-- D1.6: VF is not reset. -/
theorem test_or :
    two 0 15 (run 0x8011 (regs [(0, 240#8), (1, 15#8), (15, 7#8)])) = some (255, 7, 0x202) := by decide

/-- D1.7. -/
theorem test_and : two 0 1 (run 0x8012 (regs [(0, 240#8), (1, 60#8)])) = some (48, 60, 0x202) := by decide

/-- D1.8. -/
theorem test_xor : two 0 1 (run 0x8013 (regs [(0, 240#8), (1, 60#8)])) = some (204, 60, 0x202) := by decide

/-- D1.10 (S7c corrected). -/
theorem test_addReg : two 0 15 (run 0x8014 (regs [(0, 1#8), (1, 255#8)])) = some (0, 1, 0x202) := by decide

/-- D1.14. -/
theorem test_addReg_to_flag :
    two 15 1 (run 0x8F14 (regs [(15, 200#8), (1, 100#8)])) = some (101, 100, 0x202) := by decide

/-- D1.17. -/
theorem test_sub : two 0 15 (run 0x8015 (regs [(0, 44#8), (1, 100#8)])) = some (200, 0, 0x202) := by decide

/-- D1.22. -/
theorem test_sub_from_flag : two 0 15 (run 0x80F5 (regs [(0, 10#8), (15, 3#8)])) = some (9, 1, 0x202) := by decide

/-- D1.25: V[y] is the source, both are written. -/
theorem test_shr : two 0 1 (run 0x8106 (regs [(0, 5#8), (1, 170#8)])) = some (2, 2, 0x202) := by decide

/-- D1.28. -/
theorem test_shr_flag : two 0 15 (run 0x80F6 (regs [(15, 5#8), (0, 9#8)])) = some (0, 0, 0x202) := by decide

/-- D1.30. -/
theorem test_subn : two 0 15 (run 0x8017 (regs [(0, 10#8), (1, 3#8)])) = some (249, 0, 0x202) := by decide

/-- D1.33. -/
theorem test_subn_flag : two 0 15 (run 0x80F7 (regs [(0, 3#8), (15, 10#8)])) = some (254, 1, 0x202) := by decide

/-- D1.35. -/
theorem test_shl : two 1 2 (run 0x821E (regs [(1, 200#8)])) = some (144, 144, 0x202) := by decide

/-- D1.36: the flag is 1, not 0x80. -/
theorem test_shl_flag : two 0 15 (run 0x800E (regs [(0, 255#8)])) = some (254, 1, 0x202) := by decide

/-- D1.40. -/
theorem test_rnd :
    look (fun t => (t.readV 3).toNat) (stepWith 0xA7#8 (State.reset.withFetchWord 16 0xC30F)) = some 0x07 := by decide

/-- D1.41. -/
theorem test_rnd_mask_zero :
    look (fun t => (t.readV 3).toNat) (stepWith 0xFF#8 ((regs [(3, 0x55#8)]).withFetchWord 16 0xC300)) =
      some 0 := by decide

/-! ## Index and memory -/

/-- D3.1. -/
theorem test_ldI : iOf (run 0xA300 State.reset) = some 0x300 := by decide

/-- D3.3: not reduced to 12 bits. -/
theorem test_addI : iOf (run 0xF21E ((regs [(2, 1#8)]).setI 0x0FFF#16)) = some 0x1000 := by decide

/-- D3.4. -/
theorem test_addI_wraps : iOf (run 0xF21E ((regs [(2, 1#8)]).setI 0xFFFF#16)) = some 0 := by decide

/-- D3.6, D3.7. -/
theorem test_ldF :
    (iOf (run 0xF029 (regs [(0, 0x1A#8)])), iOf (run 0xF029 (regs [(0, 0xFF#8)]))) = (some 0x32, some 0x4B) := by decide

/-- D3.8 (S7e). -/
theorem test_ldB : bytesOf 10 3 (run 0xF033 ((regs [(0, 128#8)]).setI 10#16)) = some [1#8, 2#8, 8#8] := by decide

/-- D3.11, D3.12. -/
theorem test_ldB_bound :
    (bytesOf 0xFFD 3 (run 0xF033 ((regs [(0, 7#8)]).setI 0xFFD#16)),
      errorOf (run 0xF033 ((regs [(0, 7#8)]).setI 0xFFE#16))) = (some [0#8, 0#8, 7#8], some .memoryOutOfBounds) := by decide

/-- R124: inclusive of x, and not beyond. -/
theorem test_ldMemVx :
    bytesOf 0x300 4 (run 0xF255 ((regs [(0, 5#8), (1, 6#8), (2, 7#8), (3, 8#8)]).setI 0x300#16)) =
      some [5#8, 6#8, 7#8, 0#8] := by decide

/-- D3.14, D3.15. -/
theorem test_ldMemVx_bound :
    (bytesOf 0xFFF 1 (run 0xF055 ((regs [(0, 0xAB#8)]).setI 0xFFF#16)),
      errorOf (run 0xF155 ((regs [(0, 0xAB#8)]).setI 0xFFF#16))) = (some [0xAB#8], some .memoryOutOfBounds) := by decide

/-- D3.16. -/
theorem test_ldVxMem :
    look (fun t => ((t.readV 0, t.readV 2, t.readV 3), t.i.toNat))
      (run 0xF265 ((regsMem [(3, 9#8)] 0x300 [2#8, 5#8, 4#8, 1#8]).setI 0x300#16)) = some ((2#8, 4#8, 9#8), 0x300) := by decide

/-- D3.18. -/
theorem test_ldVxMem_bound : errorOf (run 0xFF65 (State.reset.setI 0xFF1#16)) = some .memoryOutOfBounds := by decide

/-! ## Display -/

/-- D4.10. -/
theorem test_cls :
    look (fun t => (t.pixel 0 0, t.pixel 31 63, t.readV 15))
      (run 0x00E0 (((regs [(15, 1#8)]).setFb ((State.reset.fb.flip 0 0).flip 31 63)))) = some (false, false, 1#8) := by decide

/-- D4.7: the start wraps, bit 7 is leftmost, V[x] is the column. -/
theorem test_drw :
    look (fun t => (t.pixel 2 5, t.pixel 2 6, t.pixel 5 2, t.readV 15))
      (run 0xD011 ((regsMem [(0, 69#8), (1, 34#8)] 0x300 [0x80#8]).setI 0x300#16)) = some (true, false, false, 0#8) := by decide

/-- D4.8. -/
theorem test_drw_collides :
    look (fun t => (t.pixel 0 0, t.pixel 0 1, t.readV 15)) (run 0xD011
      (((regsMem [] 0x300 [0xC0#8]).setI 0x300#16).setFb (State.reset.fb.flip 0 0))) = some (false, true, 1#8) := by decide

/-- D4.3. -/
theorem test_drw_wraps :
    look (fun t => (t.pixel 31 63, t.pixel 0 5, t.pixel 0 6, t.pixel 1 0)) (run 0xD012
      ((regsMem [(0, 62#8), (1, 31#8)] 0x20A [0xFF#8, 0xFF#8]).setI 0x20A#16)) = some (true, true, false, false) := by decide

/-- D4.6, D4.4. -/
theorem test_drw_bound :
    (errorOf (run 0xD012 (State.reset.setI 0xFFF#16)),
      look (fun t => t.readV 15) (run 0xD010 ((regs [(15, 1#8)]).setI 0xFFFF#16))) =
      (some .memoryOutOfBounds, some 0#8) := by decide

/-! ## Keys and timers -/

/-- D5.3, D5.2. -/
theorem test_skp :
    (pcOf (run 0xE39E ((regs [(3, 0x15#8)]).writeKey 5 true)), pcOf (run 0xE39E (regs [(3, 5#8)]))) =
      (some 0x204, some 0x202) := by decide

/-- D5.4, D5.5. -/
theorem test_sknp :
    (pcOf (run 0xE3A1 (regs [(3, 5#8)])), pcOf (run 0xE3A1 ((regs [(3, 5#8)]).writeKey 5 true))) =
      (some 0x204, some 0x202) := by decide

/-- D5.6 and D5.9: the held key is remembered. -/
theorem test_ldVxK :
    look (fun t => ((t.wait, t.waitx), (t.kprev[2], t.kprev[3]), t.pc.toNat))
      (run 0xF30A (State.reset.writeKey 2 true)) = some ((true, 3), (true, false), 0x200) := by decide

/-- D5.10, first Step. -/
theorem test_wait_goes_on :
    look (fun t => ((t.wait, t.pc.toNat), t.kprev[2]))
      (stepWith 0#8 ((State.reset.setWait true).writeKey 2 false)) = some ((true, 0x200), false) := by decide

/-- D5.11. -/
theorem test_wait_lowest_key :
    look (fun t => ((t.readV 3).toNat, t.pc.toNat, t.wait))
      (stepWith 0#8 ((((State.reset.setWait true).setWaitx 3).writeKey 9 true).writeKey 4 true)) =
      some (4, 0x202, false) := by decide

/-- D5.12b. -/
theorem test_wait_before_bound :
    look (fun t => (t.pc.toNat, t.wait)) (stepWith 0#8 ((State.reset.setWait true).setPc 0xFFF#16)) =
      some (0xFFF, true) := by decide

/-- D5.13. -/
theorem test_ldVxDt :
    look (fun t => (t.readV 2).toNat) (run 0xF207 (State.reset.setDt 0x3C#8)) = some 0x3C := by decide

/-- D5.14. -/
theorem test_ldDtVx :
    look (fun t => (t.dt.toNat, t.st.toNat)) (run 0xF215 (regs [(2, 0x3C#8)])) = some (0x3C, 0) := by decide

/-- D5.15. -/
theorem test_ldStVx :
    look (fun t => (t.st.toNat, t.dt.toNat)) (run 0xF218 (regs [(2, 5#8)])) = some (5, 0) := by decide

/-! ## The environment's operations and the host's step -/

/-- D5.16. -/
theorem test_tick :
    (fun t => (t.dt.toNat, t.st.toNat)) (tickTimers ((State.reset.setDt 2#8).setSt 0#8)) = (1, 0) := by decide

/-- D6.3. -/
theorem test_init :
    (fun t => ((t.pc.toNat, t.i.toNat, t.sp.val, t.wait), (t.readV 3).toNat, t.dt.toNat, t.pixel 0 0))
      (initCore ((((((((regs [(3, 9#8)]).setDt 4#8).setI 0x345#16).setSp 2).setPc 0x456#16).setWait true).setFb
        (State.reset.fb.flip 0 0)))) = ((0x200, 0, 0, false), 9, 4, true) := by decide

/-- P1's first word. -/
theorem test_load :
    ((perform (.driver (.load [0x60#8, 0x05#8])) State.reset).1.byteAt 0x200,
      (perform (.driver (.load [0x60#8, 0x05#8])) State.reset).1.byteAt 0x201) = (0x60#8, 0x05#8) := by decide

/-- D6.4, D6.5. -/
theorem test_load_bound : (inBounds 0x200 3584, inBounds 0x200 3585) = (true, false) := by decide

/-- D6.2, R155. -/
theorem test_error_leaves_state :
    perform (.step 0#8) State.reset = (State.reset, .err (.unimplementedInstruction 0#16)) := by decide

/-- The word placed is the one the very next step runs (D1.1). -/
theorem test_step_runs_placed_word :
    look (fun t => ((t.readV 10).toNat, t.pc.toNat, t.env.draws)) (step (State.reset.withFetchWord 16 0x6A2B)) =
      some (0x2B, 0x202, 1) := by decide

/-- Where nothing can be fetched at PC the word is placed at 0x200 and PC moved there. -/
theorem test_placed_word_after_bad_pc :
    pcOf (step ((State.reset.setPc 0x1002#16).withFetchWord 16 0x1500)) = some 0x500 := by decide

/-- SetKey(7, 1) of D5.8. -/
theorem test_scripted_operation :
    look (fun t => (t.key[7], t.env.script.length))
      (step (State.reset.setEnv { State.reset.env with script := [.driver (.setKey 7 true)] })) = some (true, 0) := by decide

/-! ## Witnesses: the hypotheses of the obligations can be met -/

/-- `w` placed at PC of `s`, nothing scripted. -/
def placed (w : Nat) (s : State) : State := s.withFetchWord 16 w

/-- `s` with a script. -/
def scripted (l : List Operation) (s : State) : State := s.setEnv { s.env with script := l }

theorem witness_DecodeOfEncodeGivesTheInstruction :
    Instr.wf (.drw 15 15 15#4) = true ∧ Instr.wf (.sys 0xFFF#12) = true := by decide

theorem witness_EncodeOfDecodeGivesTheWord : decodeWord 0xFF65#16 = some (.ldVxMem 15) := by decide

theorem witness_DecoderFollowsTheOpcodeTable :
    decodeWord 0x0000#16 = some (.sys 0#12) ∧ decodeWord 0xFFFF#16 = none := by decide

theorem witness_StepRunsTheDecodedInstruction_unscripted :
    Fetches (placed 0x6A2B State.reset) 0x6A2B#16 ∧ decodeWord 0x6A2B#16 = some (.ldImm 10 0x2B#8) ∧
      (placed 0x6A2B State.reset).env.script = [] := by unfold Fetches; decide

theorem witness_StepRunsTheDecodedInstruction_scripted :
    Fetches (scripted [.step 9#8] (placed 0x1200 (State.reset.setPc 0xFFE#16))) 0x1200#16 ∧
      decodeWord 0x1200#16 = some (.jp 0x200#12) ∧
      (scripted [.step 9#8] (placed 0x1200 (State.reset.setPc 0xFFE#16))).env.script = [.step 9#8] :=
  by unfold Fetches; decide

theorem witness_StepChecksInOrder_waiting : (State.reset.setWait true).wait = true := by decide

theorem witness_StepChecksInOrder_bound :
    (State.reset.setPc 0xFFF#16).wait = false ∧ 4095 < (State.reset.setPc 0xFFF#16).pc.toNat + 1 := by decide

theorem witness_StepChecksInOrder_reserved :
    Fetches (placed 0x5121 State.reset) 0x5121#16 ∧ decodeWord 0x5121#16 = none := by unfold Fetches; decide

theorem witness_StepChecksInOrder_executed :
    Fetches (placed 0x00E0 (State.reset.setPc 0xFFE#16)) 0x00E0#16 ∧ decodeWord 0x00E0#16 = some .cls :=
  by unfold Fetches; decide

theorem witness_StepChecksInOrder_error : stepWith 0#8 State.reset = .fault (.unimplementedInstruction 0#16) := rfl

theorem witness_ScriptedOperationIsPerformed :
    (scripted [.driver .init] State.reset).env.script = .driver .init :: [] := by decide

theorem witness_SysRaisesUnimplementedInstruction :
    0x0FFF#16 &&& 0xF000#16 = 0x0000#16 ∧ 0x0FFF#16 ≠ 0x00E0#16 ∧ 0x0FFF#16 ≠ 0x00EE#16 := by decide

theorem witness_ReturnGoesOnAfterTheCall_empty : State.reset.sp.val = 0 := by decide

theorem witness_ReturnGoesOnAfterTheCall_pops :
    (State.reset.setSp 1).sp.val = (0 : Reg).val + 1 ∧ (State.reset.setSp 16).sp.val = (15 : Reg).val + 1 :=
  by decide

theorem witness_CallPushesItsOwnAddress_full : (State.reset.setSp 16).sp.val = 16 := by decide

theorem witness_CallPushesItsOwnAddress_pushes :
    State.reset.sp.val = (0 : Reg).val ∧ (State.reset.setSp 15).sp.val = (15 : Reg).val := by decide

theorem witness_ReturnUndoesCall : (State.reset.setSp 15).sp.val < 16 := by decide

theorem witness_AddSetsCarry :
    255 = ((regs [(0, 255#8)]).readV 0).toNat ∧ 0 = (if 255 + 0 > 255 then 1 else 0) ∧
      1 = (if 255 + 1 > 255 then 1 else 0) ∧ (0 : Reg) ≠ regF ∧ (15 : Reg) = regF := by decide

theorem witness_SubtractSetsGreater :
    7 = ((regs [(0, 7#8)]).readV 0).toNat ∧ 0 = (if 7 > 7 then 1 else 0) ∧ 1 = (if 7 > 6 then 1 else 0) := by decide

theorem witness_ReverseSubtractSetsGreater :
    10 = ((regs [(1, 10#8)]).readV 1).toNat ∧ 1 = (if 10 > 3 then 1 else 0) ∧ 0 = (if 3 > 10 then 1 else 0) :=
  by decide

theorem witness_ShiftRightShiftsVy :
    5 = ((regs [(15, 5#8)]).readV 15).toNat ∧ (15 : Reg) = regF ∧ (0 : Reg) ≠ regF := by decide

theorem witness_ShiftLeftShiftsVy : 0x81 = ((regs [(1, 0x81#8)]).readV 1).toNat ∧ (1 : Reg) ≠ regF := by decide

theorem witness_RandomIsMaskedSideInput :
    Fetches (placed 0xC30F State.reset) 0xC30F#16 ∧ 0xC30F#16 &&& 0xF000#16 = 0xC000#16 := by unfold Fetches; decide

theorem witness_DecimalStoreWritesThreeDigits :
    Memory.wf State.reset.mem = true ∧ 255 = ((regs [(0, 255#8)]).readV 0).toNat ∧
      4095 < (State.reset.setI 0xFFE#16).i.toNat + 2 ∧ (State.reset.setI 0xFFD#16).i.toNat + 2 ≤ 4095 := by decide

theorem witness_StoreRegistersUpToVx :
    Memory.wf (regsMem [] 0xFFF [1#8]).mem = true ∧ 4095 < (State.reset.setI 0xFFF#16).i.toNat + (1 : Reg).val ∧
      (State.reset.setI 0xFFF#16).i.toNat + (0 : Reg).val ≤ 4095 := by decide

theorem witness_LoadRegistersUpToVx :
    4095 < (State.reset.setI 0xFF1#16).i.toNat + (15 : Reg).val ∧
      (State.reset.setI 0xFF0#16).i.toNat + (15 : Reg).val ≤ 4095 := by decide

theorem witness_LoadAfterStoreRecoversRegisters :
    Memory.wf State.reset.mem = true ∧ (State.reset.setI 0xFF0#16).i.toNat + (15 : Reg).val ≤ 4095 := by decide

theorem witness_StoredBytesAreFetched :
    Memory.wf State.reset.mem = true ∧ (State.reset.setI 0xFF0#16).i.toNat + (15 : Reg).val ≤ 4095 ∧
      (15 : Reg).val = (14 : Reg).val + 1 ∧ (15 : Reg).val ≤ (15 : Reg).val ∧ State.reset.wait = false ∧
      (State.reset.setPc 0xFFE#16).pc.toNat = (State.reset.setI 0xFF0#16).i.toNat + (14 : Reg).val := by decide

theorem witness_DrawFlipsTheSpritesPixels_bound :
    1 ≤ (1#4).toNat ∧ 4095 < (State.reset.setI 0x1000#16).i.toNat + (1#4).toNat - 1 ∧
      (State.reset.setI 0xFFF#16).i.toNat + (1#4).toNat - 1 ≤ 4095 ∧ (0#4).toNat = 0 := by decide

theorem witness_DrawFlipsTheSpritesPixels_hit :
    ∃ hit : Fin 32 → Fin 64 → Prop, ∀ row col, hit row col ↔ ∃ r < (5#4).toNat, ∃ c < 8,
      (State.reset.byteAt (State.reset.indexAddr + r)).getLsbD (7 - c) = true ∧
      row.val = ((State.reset.readV 1).toNat + r) % 32 ∧ col.val = ((State.reset.readV 0).toNat + c) % 64 :=
  ⟨_, fun _ _ => Iff.rfl⟩

theorem witness_DrawTwiceRestoresTheScreen :
    (0 : Reg) ≠ regF ∧ (1 : Reg) ≠ regF ∧ (State.reset.setI 0xFF1#16).i.toNat + (15#4).toNat ≤ 4096 := by decide

theorem witness_KeySkipsTestTheLowNibble : (10 : Reg).val = ((regs [(3, 0x1A#8)]).readV 3).toNat % 16 := by decide

/-- A waiting machine with key 4 newly down, and one with only an old key down. -/
def newlyDown : State := (State.reset.setWait true).writeKey 4 true

/-- A waiting machine whose pressed key was down at the last look. -/
def heldDown : State := ((State.reset.writeKey 4 true).snapshotKeys).setWait true

theorem witness_WaitingStepCompletesOnNewKey_new :
    newlyDown.wait = true ∧ newlyDown.key[(4 : Reg)] = true ∧ newlyDown.kprev[(4 : Reg)] = false ∧
      ∀ j < (4 : Reg), newlyDown.key[j] = true → newlyDown.kprev[j] = true := by decide

theorem witness_WaitingStepCompletesOnNewKey_held :
    heldDown.wait = true ∧ heldDown.key[(4 : Reg)] = true ∧
      ∀ k : Reg, heldDown.key[k] = true → heldDown.kprev[k] = true := by decide

theorem witness_ErrorsLeaveTheStateUnchanged :
    stepWith 7#8 (State.reset.setPc 0xFFF#16) = .fault .memoryOutOfBounds := rfl

theorem witness_ErrorsDependOnFewParts :
    ((regs [(3, 9#8)]).writeKey 1 true).pc = State.reset.pc ∧ ((regs [(3, 9#8)]).writeKey 1 true).mem = State.reset.mem ∧
      ((regs [(3, 9#8)]).writeKey 1 true).sp = State.reset.sp ∧ ((regs [(3, 9#8)]).writeKey 1 true).i = State.reset.i ∧
      ((regs [(3, 9#8)]).writeKey 1 true).wait = State.reset.wait ∧
      stepWith 0#8 State.reset = .fault (.unimplementedInstruction 0#16) :=
  ⟨rfl, rfl, rfl, rfl, rfl, rfl⟩

/-- Every clause's premise: a part that changes. -/
theorem witness_EachPartHasItsWriters :
    look (fun t => (t.byteAt 0x300, State.reset.byteAt 0x300)) (exec (.ldB 0) ((regs [(0, 255#8)]).setI 0x300#16)) =
        some (2#8, 0#8) ∧
      look (fun t => t.i) (exec (.ldI 1#12) State.reset) = some 1#16 ∧
      look (fun t => (t.stackAt 0, t.sp.val)) (exec (.call 0x300#12) State.reset) = some (0x200#16, 1) ∧
      look (fun t => (t.dt, t.fb)) (exec (.ldDtVx 0) (regs [(0, 3#8)])) = some (3#8, State.reset.fb) ∧
      look (fun t => t.st) (exec (.ldStVx 0) (regs [(0, 3#8)])) = some 3#8 ∧
      look (fun t => t.pixel 0 0) (exec .cls (State.reset.setFb (State.reset.fb.flip 0 0))) = some false ∧
      look (fun t => (t.wait, t.waitx)) (exec (.ldVxK 3) State.reset) = some (true, 3) ∧
      look (fun t => (t.readV 0, t.readV 2, t.readV 3)) (exec (.ldVxMem 2) (regsMem [] 0 [1#8, 2#8, 3#8, 4#8])) =
        some (1#8, 3#8, 0#8) ∧
      look (fun t => (t.readV 1, t.readV 2, t.readV regF)) (exec (.shr 1 2) (regs [(2, 5#8)])) = some (2#8, 2#8, 1#8) ∧
      pcOf (exec (.jp 0x500#12) State.reset) = some 0x500 :=
  by decide

theorem witness_FlagRegisterHasItsWriters :
    look (fun t => t.readV regF) (exec (.addReg 0 1) (regs [(0, 128#8), (1, 128#8)])) = some 1#8 ∧
      State.reset.readV regF = 0#8 := by decide

theorem witness_OnlySetKeyAndPowerOnWriteKeys :
    (perform (.driver (.setKey 3 true)) State.reset).1.key ≠ State.reset.key ∧
      (perform (.driver .powerOn) (State.reset.writeKey 3 true)).1.key ≠ (State.reset.writeKey 3 true).key :=
  by decide

theorem witness_OnlyRandomReadsTheSideInput :
    (∀ x nn, Instr.cls ≠ .rnd x nn) ∧ (∃ t, exec .cls State.reset = .next t) ∧
      exec .ret State.reset = .fault .stackUnderflow := ⟨(fun _ _ h => by cases h), ⟨_, rfl⟩, rfl⟩

theorem witness_IdleKeyLatchIsDead :
    State.reset.wait = false ∧ stepWith 0#8 State.reset = .fault (.unimplementedInstruction 0#16) ∧
      (placed 0xF30A State.reset).wait = false ∧ look (fun t => t.wait) (stepWith 0#8 (placed 0xF30A State.reset)) = some true :=
  ⟨rfl, rfl, rfl, by decide⟩

theorem witness_TickTakesOneFromEachTimer :
    look (fun t => (t.dt, t.st)) (stepWith 0#8 (placed 0xF215 (regs [(2, 7#8)]))) = some (7#8, 0#8) ∧
      look (fun t => (t.dt, t.st)) (stepWith 0#8 (placed 0xF218 (regs [(2, 7#8)]))) = some (0#8, 7#8) := by decide

theorem witness_LoadWritesTheProgram_fits :
    Memory.wf State.reset.mem = true ∧ 0x200 + (List.replicate 3584 (0x60#8 : Byte)).length ≤ 0x1000 :=
  ⟨rfl, by rw [List.length_replicate]⟩

theorem witness_LoadWritesTheProgram_too_large :
    0x1000 < 0x200 + (List.replicate 3585 (0x60#8 : Byte)).length := by rw [List.length_replicate]; decide

theorem witness_LoadFontWritesTheTable : Memory.wf (regsMem [] 0x200 [0x60#8]).mem = true := by decide

theorem witness_BootOrderEstablishesTheStart :
    ∃ t, 0x200 + [0x12#8, 0x00#8].length ≤ 0x1000 ∧ performAll [.driver .powerOn, .driver .loadFont,
      .driver (.load [0x12#8, 0x00#8]), .driver .init] newlyDown = t := ⟨_, by decide, rfl⟩

theorem witness_SelfJumpChangesNothing :
    Fetches (placed 0x1200 State.reset) 0x1200#16 ∧ 0x1200#16 &&& 0xF000#16 = 0x1000#16 ∧
      (nnnField 0x1200#16).toNat = (placed 0x1200 State.reset).pc.toNat := by unfold Fetches; decide

/-- A state of the invariant with a listed memory, a live stack entry and a suspended Fx0A. -/
def inside : State :=
  (((placed 0xF30A (State.reset.setPc 0xFFE#16)).setSp 1).writeStack 0 0xFFE#16).setWait true

theorem witness_StepKeepsTheInvariant : Invariant inside ∧ ∃ t, step inside = .next t :=
  ⟨⟨by decide, by decide, by decide, by decide⟩, ⟨_, rfl⟩⟩

theorem witness_ReachableStatesSatisfyTheInvariant_operation : Invariant inside :=
  witness_StepKeepsTheInvariant.1

theorem witness_ReachableStatesSatisfyTheInvariant :
    Reachable (performAll [.driver (.load [0x22#8, 0x00#8]), .step 5#8, .driver (.setKey 2 true)] State.reset) ∧
      (performAll [.driver (.load [0x22#8, 0x00#8]), .step 5#8, .driver (.setKey 2 true)] State.reset).sp.val = 1 :=
  ⟨⟨_, rfl⟩, by decide⟩

end Sys2Proof.Tests
end

section
/-! PROOFS. KEY and its two writers, SetKey and PowerOn (10_state.md R19). -/

namespace Sys2Proof.Machine

/-! ## No instruction and no Step writes KEY -/

/-- Every next state is built from setters of other fields; the cases differ only in what guards or values `NextIs`
names beside the next state. -/
theorem NextIs.key_eq {i : Instr} {s t : State} (h : NextIs i s t) : t.key = s.key := by
  cases i
  case sys => exact h.elim
  case ret => obtain ⟨k, hk, rfl⟩ := h; simp
  case call => obtain ⟨hsp, rfl⟩ := h; simp
  case seImm | sneImm | seReg | sneReg | skp | sknp => obtain rfl | rfl := h <;> simp
  case addReg | sub | subn | shr | shl => obtain ⟨f, r, rfl⟩ := h; simp
  case ldB | ldMemVx | ldVxMem => obtain ⟨_, rfl⟩ := h; simp
  all_goals
    subst h
    simp

@[simp] theorem resumeWait_key (s : State) : (resumeWait s).key = s.key := by
  obtain ⟨k, -, h⟩ | ⟨-, h⟩ := resumeWait_cases s <;> simp [h]

theorem stepWith_next_key {rnd : Byte} {s t : State} (h : stepWith rnd s = .next t) : t.key = s.key := by
  obtain ⟨-, hs⟩ | ⟨-, -, hs⟩ | ⟨-, -, hs⟩ | ⟨i, -, -, hs⟩ := stepWith_cases s rnd <;> rw [hs] at h
  · cases h
    exact resumeWait_key s
  · cases h
  · cases h
  · simpa using (exec_next h).key_eq

/-- A performed Step leaves the next state where it has one, and otherwise the state before it (R155). -/
theorem perform_step_cases (rnd : Byte) (s : State) :
    stepWith rnd s = .next (perform (.step rnd) s).1 ∨ (perform (.step rnd) s).1 = s := by
  cases h : stepWith rnd s with
  | next t => exact .inl (by simp [perform, h])
  | fault f => exact .inr (by simp [perform, h])
  | refused r => exact .inr (by simp [perform, h])

@[simp] theorem perform_step_key (rnd : Byte) (s : State) : (perform (.step rnd) s).1.key = s.key := by
  obtain h | h := perform_step_cases rnd s
  · exact stepWith_next_key h
  · rw [h]

/-! ## The environment's operations -/

theorem driverMove_load_key (bytes : List Byte) (s : State) : (driverMove (.load bytes) s).1.key = s.key := by
  by_cases h : loadFits bytes = true <;> simp [driverMove, h]

/-- Settles O43: a Step keeps KEY, and of the environment's seven operations five do. -/
theorem onlySetKeyAndPowerOnWriteKeys : Obligations.OnlySetKeyAndPowerOnWriteKeys := by
  intro op s hne
  cases op with
  | step rnd => exact absurd (perform_step_key rnd s) hne
  | driver d =>
    cases d with
    | powerOn => exact .inl rfl
    | setKey k down => exact .inr ⟨k, down, rfl⟩
    | load bytes => exact absurd (driverMove_load_key bytes s) hne
    | loadFont => exact absurd (loadFont_key s) hne
    | init => exact absurd (initCore_key s) hne
    | tickTimers => exact absurd (tickTimers_key s) hne
    | observe => exact absurd rfl hne

end Sys2Proof.Machine
end

section
/-! PROOFS. The order of a Step's checks (30_encoding.md R64): WAIT, the fetch bound, the decode, the instruction. -/

namespace Sys2Proof.Machine

/-- A Step that raises answers its error and leaves the whole state as it was (R155). -/
theorem perform_step_fault {rnd : Byte} {s : State} {f : Fault} (h : stepWith rnd s = .fault f) :
    perform (.step rnd) s = (s, .err f) := by
  simp [perform, h]

/-- Settles O6: one clause of R64 for each row of `stepWith_cases`, and R155 for a Step that raises. -/
theorem stepChecksInOrder : Obligations.StepChecksInOrder := by
  intro s rnd
  refine ⟨?waiting, ?outOfBounds, ?noInstruction, ?executed, ?raises⟩
  case waiting => exact stepWith_waiting rnd
  case outOfBounds => exact stepWith_out_of_bounds rnd
  case noInstruction => exact fun _ hf hd => stepWith_no_instruction rnd hf hd
  case executed => exact fun _ _ hf hd => stepWith_fetches rnd hf hd
  case raises => exact fun _ h => congrArg Prod.fst (perform_step_fault h)

end Sys2Proof.Machine
end

section
/-! PROOFS. The frames of the setters a control transfer uses, and the jump and the call (40_flow.md R82, R83). -/

namespace Sys2Proof.Machine

/-! ## Frames: one per setter, and how they compose -/

section frames
variable {s t u : State} {P Q : Part → Prop}

theorem Part.same.trans {p : Part} (hst : p.same s t) (htu : p.same t u) : p.same s u := by
  cases p <;> exact Eq.trans htu hst

theorem OnlyChanges.trans (hst : OnlyChanges P s t) (htu : OnlyChanges P t u) : OnlyChanges P s u :=
  fun p hp => (hst p hp).trans (htu p hp)

theorem OnlyChanges.mono (h : OnlyChanges P s t) (hPQ : ∀ p, P p → Q p) : OnlyChanges Q s t :=
  fun p hp => h p fun hP => hp (hPQ p hP)

theorem onlyChanges_setPc (s : State) (w : Word) : OnlyChanges (fun p => p = .pc) s (s.setPc w) := by
  intro p hp
  cases p
  case pc => exact absurd rfl hp
  all_goals rfl

theorem onlyChanges_setSp (s : State) (n : Fin 17) : OnlyChanges (fun p => p = .sp) s (s.setSp n) := by
  intro p hp
  cases p
  case sp => exact absurd rfl hp
  all_goals rfl

theorem onlyChanges_writeStack (s : State) (k : Reg) (w : Word) :
    OnlyChanges (fun p => p = .stack k) s (s.writeStack k w) := by
  intro p hp
  cases p
  case stack j =>
    have hjk : j ≠ k := fun h => hp (congrArg Part.stack h)
    exact (s.stackAt_writeStack k j w).trans (if_neg hjk)
  all_goals rfl

end frames

/-! ## 1nnn -/

/-- `zext_16` keeps the address (R63). -/
@[simp] theorem addr16_toNat (nnn : Imm12) : (addr16 nnn).toNat = nnn.toNat :=
  BitVec.toNat_setWidth_of_le (by decide)

theorem encoded_jp : Encoded 0xF000#16 0x1000#16 (fun w => .jp (nnnField w)) := by
  intro w hw
  have hop : opField w = 0x1#4 := opField_of_mask hw
  simp [decodeWord, hop]

/-- Settles O10: a jump is one write of PC, whatever its target. -/
theorem jumpSetsPc : Obligations.JumpSetsPc :=
  ⟨encoded_jp, fun nnn s => ⟨_, exec_jp s nnn, addr16_toNat nnn, onlyChanges_setPc s _⟩⟩

/-! ## 2nnn -/

theorem encoded_call : Encoded 0xF000#16 0x2000#16 (fun w => .call (nnnField w)) := by
  intro w hw
  have hop : opField w = 0x2#4 := opField_of_mask hw
  simp [decodeWord, hop]

/-- The state a call leaves when SP names the slot `k` (R83). -/
def State.called (s : State) (k : Reg) (nnn : Imm12) : State :=
  ((s.writeStack k s.pc).setSp k.succ).setPc (addr16 nnn)

theorem exec_call_slot {s : State} {k : Reg} (nnn : Imm12) (hk : s.sp.val = k.val) :
    exec (.call nnn) s = .next (s.called k nnn) := by
  have hsp : s.sp.val < 16 := hk ▸ k.isLt
  obtain rfl : k = ⟨s.sp.val, hsp⟩ := Fin.ext hk.symm
  exact exec_call_lt s nnn hsp

theorem State.called_stackAt (s : State) (k : Reg) (nnn : Imm12) : (s.called k nnn).stackAt k = s.pc :=
  (s.stackAt_writeStack k k s.pc).trans (if_pos rfl)

theorem onlyChanges_called (s : State) (k : Reg) (nnn : Imm12) :
    OnlyChanges (fun p => p = .pc ∨ p = .sp ∨ p = .stack k) s (s.called k nnn) := by
  refine ((onlyChanges_writeStack s k s.pc).mono ?stack).trans
    (((onlyChanges_setSp _ k.succ).mono ?sp).trans ((onlyChanges_setPc _ (addr16 nnn)).mono ?pc))
  case stack => exact fun _ h => .inr (.inr h)
  case sp => exact fun _ h => .inr (.inl h)
  case pc => exact fun _ h => .inl h

/-- Settles O11: the push is of PC as it stands, the slot is SP, and SP = 16 leaves no slot. -/
theorem callPushesItsOwnAddress : Obligations.CallPushesItsOwnAddress := by
  refine ⟨encoded_call, fun nnn s => ⟨exec_call_full s nnn, fun k hk => ?pushes⟩⟩
  case pushes =>
    have hsp : (s.called k nnn).sp.val = s.sp.val + 1 := congrArg Nat.succ hk.symm
    exact ⟨_, exec_call_slot nnn hk, s.called_stackAt k nnn, hsp, addr16_toNat nnn, onlyChanges_called s k nnn⟩

end Sys2Proof.Machine
end

section
/-! PROOFS. The conditional skips: where each leaves PC, and the four on register compares (41_skip.md R90 to R93). -/

namespace Sys2Proof.Machine

/-! ## The distance of a conditional skip -/

/-- The outcome `r` from the state `s` is the next state with PC moved on by `d` modulo 65536 and nothing else
changed. -/
def MovesPcBy (d : Nat) (s : State) (r : Result) : Prop :=
  ∃ t, r = .next t ∧ OnlyChanges (fun p => p = .pc) s t ∧ t.pc.toNat = (s.pc.toNat + d) % 65536

theorem skipIf_moves (c : Bool) (s : State) : MovesPcBy (if c then 4 else 2) s (skipIf c s) := by
  refine ⟨_, skipIf_eq c s, onlyChanges_setPc s _, ?distance⟩
  case distance => cases c <;> exact BitVec.toNat_add s.pc _

/-- SE's polarity: four on a match. -/
theorem skipIf_beq_moves (a b : Byte) (s : State) :
    MovesPcBy (if a.toNat = b.toNat then 4 else 2) s (skipIf (a == b) s) := by
  simpa only [beq_iff_eq, BitVec.toNat_inj] using skipIf_moves (a == b) s

/-- SNE's polarity: two on a match. -/
theorem skipIf_bne_moves (a b : Byte) (s : State) :
    MovesPcBy (if a.toNat = b.toNat then 2 else 4) s (skipIf (a != b) s) := by
  simpa only [bne_iff_ne, ne_eq, ite_not, BitVec.toNat_inj] using skipIf_moves (a != b) s

/-! ## 3xnn, 4xnn, 5xy0, 9xy0 -/

theorem encoded_seImm : Encoded 0xF000#16 0x3000#16 (fun w => .seImm (xField w) (nnField w)) := by
  intro w hw
  have hop : opField w = 0x3#4 := opField_of_mask hw
  simp [decodeWord, hop]

theorem encoded_sneImm : Encoded 0xF000#16 0x4000#16 (fun w => .sneImm (xField w) (nnField w)) := by
  intro w hw
  have hop : opField w = 0x4#4 := opField_of_mask hw
  simp [decodeWord, hop]

theorem encoded_seReg : Encoded 0xF00F#16 0x5000#16 (fun w => .seReg (xField w) (yField w)) := by
  intro w hw
  obtain ⟨hop, hn⟩ : opField w = 0x5#4 ∧ nField w = 0x0#4 := fields_of_mask_XY hw
  simp [decodeWord, hop, hn]

theorem encoded_sneReg : Encoded 0xF00F#16 0x9000#16 (fun w => .sneReg (xField w) (yField w)) := by
  intro w hw
  obtain ⟨hop, hn⟩ : opField w = 0x9#4 ∧ nField w = 0x0#4 := fields_of_mask_XY hw
  simp [decodeWord, hop, hn]

/-- Settles O14: each register skip is `skipIf` on one comparison, `==` for SE and `!=` for SNE. -/
theorem skipsMoveByFourOrTwo : Obligations.SkipsMoveByFourOrTwo := by
  refine ⟨⟨encoded_seImm, encoded_sneImm, encoded_seReg, encoded_sneReg⟩, fun x y nn s => ?_⟩
  rw [exec_seImm, exec_sneImm, exec_seReg, exec_sneReg]
  exact ⟨skipIf_beq_moves _ _ s, skipIf_bne_moves _ _ s, skipIf_beq_moves _ _ s, skipIf_bne_moves _ _ s⟩

end Sys2Proof.Machine
end

section
/-! PROOFS. The instructions that write one register and nothing else but PC: load, add and copy, and the bitwise ones
(42_alu.md R100 to R105). -/

namespace Sys2Proof.Machine

/-! ## One register written, then PC + 2 -/

/-- The state an instruction leaves whose one effect is `V[x] <- b`, with PC at the next instruction. -/
def State.wroteV (s : State) (x : Reg) (b : Byte) : State := (s.writeV x b).setPc (s.pc + 2#16)

section wroteV
variable (s : State) (x : Reg) (b : Byte)

theorem done_writeV : done (s.writeV x b) = .next (s.wroteV x b) := done_next _

@[simp] theorem State.wroteV_readV : (s.wroteV x b).readV x = b := s.readV_writeV_same x b

theorem State.wroteV_pc : (s.wroteV x b).pc.toNat = (s.pc.toNat + 2) % 65536 := BitVec.toNat_add s.pc 2#16

theorem onlyChanges_writeV : OnlyChanges (fun p => p = .v x) s (s.writeV x b) := by
  intro p hp
  cases p
  case v y =>
    have hyx : y ≠ x := fun h => hp (congrArg Part.v h)
    exact s.readV_writeV_ne b hyx
  all_goals rfl

theorem onlyChanges_wroteV : OnlyChanges (fun p => p = .pc ∨ p = .v x) s (s.wroteV x b) :=
  ((onlyChanges_writeV s x b).mono fun _ => .inr).trans ((onlyChanges_setPc _ _).mono fun _ => .inl)

end wroteV

/-! ## 6xnn, 7xnn, 8xy0 -/

theorem encoded_ldImm : Encoded 0xF000#16 0x6000#16 (fun w => .ldImm (xField w) (nnField w)) := by
  intro w hw
  have hop : opField w = 0x6#4 := opField_of_mask hw
  simp [decodeWord, hop]

theorem encoded_addImm : Encoded 0xF000#16 0x7000#16 (fun w => .addImm (xField w) (nnField w)) := by
  intro w hw
  have hop : opField w = 0x7#4 := opField_of_mask hw
  simp [decodeWord, hop]

/-- A word 8xyn is read by `decodeArith`, which looks at the digit n alone. -/
theorem encoded_arith {n : Nibble} {i : Word → Instr}
    (h : ∀ w, nField w = n → decodeArith w = some (i w)) : Encoded 0xF00F#16 (0x800#12 ++ n) i := by
  intro w hw
  obtain ⟨hop, hn⟩ := fields_of_mask_XY hw
  have hop : opField w = 0x8#4 := hop.trans (extract_append_high (s := 8) 0x800#12 n 4)
  have hn : nField w = n := hn.trans ((extract_append_low 0x800#12 n (by decide)).trans (extract_all n))
  simpa [decodeWord, hop] using h w hn

theorem encoded_ldReg : Encoded 0xF00F#16 0x8000#16 (fun w => .ldReg (xField w) (yField w)) :=
  encoded_arith (n := 0x0#4) fun w hn => by simp [decodeArith, hn]

/-- Settles O15: each of the three is one register write, of nn, of the sum modulo 256 or of V[y]. -/
theorem loadAddAndCopy : Obligations.LoadAddAndCopy := by
  refine ⟨⟨encoded_ldImm, encoded_addImm, encoded_ldReg⟩, fun x y nn s => ?_⟩
  rw [exec_ldImm, exec_addImm, exec_ldReg]
  refine ⟨⟨_, done_writeV s x _, ?load, s.wroteV_pc x _, onlyChanges_wroteV s x _⟩,
    ⟨_, done_writeV s x _, ?add, s.wroteV_pc x _, onlyChanges_wroteV s x _⟩,
    ⟨_, done_writeV s x _, ?copy, s.wroteV_pc x _, onlyChanges_wroteV s x _⟩⟩
  case load => exact s.wroteV_readV x nn
  case add => rw [State.wroteV_readV, BitVec.toNat_add]
  case copy => exact s.wroteV_readV x _

/-! ## 8xy1, 8xy2, 8xy3 -/

theorem encoded_or : Encoded 0xF00F#16 0x8001#16 (fun w => .or (xField w) (yField w)) :=
  encoded_arith (n := 0x1#4) fun w hn => by simp [decodeArith, hn]

theorem encoded_and : Encoded 0xF00F#16 0x8002#16 (fun w => .and (xField w) (yField w)) :=
  encoded_arith (n := 0x2#4) fun w hn => by simp [decodeArith, hn]

theorem encoded_xor : Encoded 0xF00F#16 0x8003#16 (fun w => .xor (xField w) (yField w)) :=
  encoded_arith (n := 0x3#4) fun w hn => by simp [decodeArith, hn]

/-- Settles O16: each of the three is one register write, and bit b of the byte written is the Boolean operation on the
operands' bits b. -/
theorem logicIsBitwise : Obligations.LogicIsBitwise := by
  refine ⟨⟨encoded_or, encoded_and, encoded_xor⟩, fun x y s => ?_⟩
  rw [exec_or, exec_and, exec_xor]
  refine ⟨⟨_, done_writeV s x _, s.wroteV_pc x _, fun b _ => ?or, onlyChanges_wroteV s x _⟩,
    ⟨_, done_writeV s x _, s.wroteV_pc x _, fun b _ => ?and, onlyChanges_wroteV s x _⟩,
    ⟨_, done_writeV s x _, s.wroteV_pc x _, fun b _ => ?xor, onlyChanges_wroteV s x _⟩⟩
  case or => rw [State.wroteV_readV, BitVec.getLsbD_or]
  case and => rw [State.wroteV_readV, BitVec.getLsbD_and]
  case xor => rw [State.wroteV_readV, BitVec.getLsbD_xor]

end Sys2Proof.Machine
end

section
/-! PROOFS. I and the register transfers (43_index_memory.md): Annn, and the whole ranges of Fx55 and Fx65 (R120, R124,
R125). -/

namespace Sys2Proof.Machine

/-! ## An effect that leaves PC, then PC + 2 -/

section nextPc
variable {s t : State} {P : Part → Prop}

theorem nextPc_toNat (h : t.pc = s.pc) : (t.setPc (t.pc + 2#16)).pc.toNat = (s.pc.toNat + 2) % 65536 := by
  rw [State.setPc_pc, h]
  exact BitVec.toNat_add s.pc 2#16

theorem OnlyChanges.nextPc (h : OnlyChanges P s t) :
    OnlyChanges (fun p => p = .pc ∨ P p) s (t.setPc (t.pc + 2#16)) :=
  (h.mono fun _ => .inr).trans ((onlyChanges_setPc t _).mono fun _ => .inl)

end nextPc

/-! ## Annn -/

theorem encoded_ldI : Encoded 0xF000#16 0xA000#16 (fun w => .ldI (nnnField w)) := by
  intro w hw
  have hop : opField w = 0xA#4 := opField_of_mask hw
  simp [decodeWord, hop]

theorem onlyChanges_setI (s : State) (w : Word) : OnlyChanges (fun p => p = .i) s (s.setI w) := by
  intro p hp
  cases p
  case i => exact absurd rfl hp
  all_goals rfl

/-- Settles O23: Annn is one write of I, whatever the address. -/
theorem loadIndexSetsI : Obligations.LoadIndexSetsI := by
  refine ⟨encoded_ldI, fun nnn s => ?_⟩
  rw [exec_ldI, done_next]
  exact ⟨_, rfl, addr16_toNat nnn, nextPc_toNat rfl, (onlyChanges_setI s _).nextPc⟩

/-! ## The words FxNN -/

/-- A word FxNN is read by `decodeMisc`, which looks at the byte nn alone. -/
theorem encoded_misc {nn : Byte} {i : Word → Instr}
    (h : ∀ w, nnField w = nn → decodeMisc w = some (i w)) : Encoded 0xF0FF#16 (0xF0#8 ++ nn) i := by
  intro w hw
  obtain ⟨hop, hnn⟩ := fields_of_mask_X hw
  have hop : opField w = 0xF#4 := hop.trans (extract_append_high (s := 4) 0xF0#8 nn 4)
  have hnn : nnField w = nn := hnn.trans ((extract_append_low 0xF0#8 nn (by decide)).trans (extract_all nn))
  simpa [decodeWord, hop] using h w hnn

theorem encoded_ldMemVx : Encoded 0xF0FF#16 0xF055#16 (fun w => .ldMemVx (xField w)) :=
  encoded_misc (nn := 0x55#8) fun w hnn => by simp [decodeMisc, hnn]

theorem encoded_ldVxMem : Encoded 0xF0FF#16 0xF065#16 (fun w => .ldVxMem (xField w)) :=
  encoded_misc (nn := 0x65#8) fun w hnn => by simp [decodeMisc, hnn]

/-! ## Fx55 -/

/-- A range store changes the bytes of its range alone. -/
theorem onlyChanges_writeRange {s : State} (hwf : Memory.wf s.mem = true) {a : Nat} {bytes : List Byte}
    (ha : a + bytes.length ≤ 4096) :
    OnlyChanges (fun p => ∃ k < bytes.length, p = .mem (a + k)) s (s.setMem (Memory.writeRange s.mem a bytes)) := by
  intro p hp
  cases p
  case mem b =>
    have hb : ¬ (a ≤ b ∧ b < a + bytes.length) := fun ⟨hab, hbe⟩ =>
      hp ⟨b - a, by omega, congrArg Part.mem (Nat.add_sub_cancel' hab).symm⟩
    exact (State.byteAt_writeRange hwf a b bytes ha).trans (if_neg hb)
  all_goals rfl

/-- The state with V[0] to V[x] in memory from I on (R124). -/
def State.storedRegs (s : State) (x : Reg) : State :=
  s.setMem (Memory.writeRange s.mem s.indexAddr (s.regsUpTo x))

section store
variable {s : State} {x : Reg}

theorem exec_ldMemVx_outOfBounds (h : 4095 < s.i.toNat + x.val) :
    exec (.ldMemVx x) s = .fault .memoryOutOfBounds :=
  (exec_ldMemVx s x).trans (if_neg (by omega))

theorem exec_ldMemVx_inBounds (h : s.i.toNat + x.val ≤ 4095) :
    exec (.ldMemVx x) s = done (s.storedRegs x) :=
  (exec_ldMemVx s x).trans (if_pos (by omega))

/-- The range check of Fx55 is on the x + 1 bytes it stores. -/
theorem State.regsUpTo_fits (h : s.i.toNat + x.val ≤ 4095) : s.indexAddr + (s.regsUpTo x).length ≤ 4096 := by
  rw [State.length_regsUpTo, State.indexAddr]
  omega

theorem State.storedRegs_byteAt (hwf : Memory.wf s.mem = true) (h : s.i.toNat + x.val ≤ 4095) {k : Reg}
    (hk : k.val ≤ x.val) : (s.storedRegs x).byteAt (s.indexAddr + k.val) = s.readV k := by
  have hrange : s.indexAddr ≤ s.indexAddr + k.val ∧ s.indexAddr + k.val < s.indexAddr + (s.regsUpTo x).length := by
    rw [State.length_regsUpTo]
    omega
  rw [State.storedRegs, State.byteAt_writeRange hwf _ _ _ (State.regsUpTo_fits h), if_pos hrange,
    Nat.add_sub_cancel_left, State.getD_regsUpTo s x k hk]

theorem onlyChanges_storedRegs (hwf : Memory.wf s.mem = true) (h : s.i.toNat + x.val ≤ 4095) :
    OnlyChanges (fun p => ∃ k ≤ x.val, p = .mem (s.indexAddr + k)) s (s.storedRegs x) := by
  refine (onlyChanges_writeRange hwf (State.regsUpTo_fits h)).mono ?_
  rintro p ⟨k, hk, rfl⟩
  rw [State.length_regsUpTo] at hk
  exact ⟨k, by omega, rfl⟩

end store

/-- Settles O27: Fx55 is one range store of the x + 1 registers, checked as a whole before the first write. -/
theorem storeRegistersUpToVx : Obligations.StoreRegistersUpToVx := by
  refine ⟨encoded_ldMemVx, fun x s hwf => ⟨exec_ldMemVx_outOfBounds, fun h => ?stores⟩⟩
  case stores =>
    exact ⟨_, (exec_ldMemVx_inBounds h).trans (done_next _), fun _ => State.storedRegs_byteAt hwf h, nextPc_toNat rfl,
      (onlyChanges_storedRegs hwf h).nextPc⟩

/-! ## Fx65 -/

/-- A write of the first registers changes no register past the list. -/
theorem onlyChanges_writeRegs (s : State) (bytes : List Byte) :
    OnlyChanges (fun p => ∃ k : Reg, k.val < bytes.length ∧ p = .v k) s (s.writeRegs bytes) := by
  intro p hp
  cases p
  case v k =>
    have hk : bytes.length ≤ k.val := Nat.le_of_not_lt fun hlt => hp ⟨k, hlt, rfl⟩
    exact (s.readV_writeRegs bytes k).trans (List.getD_eq_default bytes _ hk)
  all_goals simp [Part.same]

/-- The state with V[0] to V[x] taken from memory from I on (R125). -/
def State.loadedRegs (s : State) (x : Reg) : State :=
  s.writeRegs (Memory.readRange s.mem s.indexAddr (x.val + 1))

section load
variable {s : State} {x : Reg}

theorem exec_ldVxMem_outOfBounds (h : 4095 < s.i.toNat + x.val) :
    exec (.ldVxMem x) s = .fault .memoryOutOfBounds :=
  (exec_ldVxMem s x).trans (if_neg (by omega))

theorem exec_ldVxMem_inBounds (h : s.i.toNat + x.val ≤ 4095) :
    exec (.ldVxMem x) s = done (s.loadedRegs x) :=
  (exec_ldVxMem s x).trans (if_pos (by omega))

theorem State.loadedRegs_readV (s : State) {x k : Reg} (hk : k.val ≤ x.val) :
    (s.loadedRegs x).readV k = s.byteAt (s.indexAddr + k.val) := by
  rw [State.loadedRegs, State.readV_writeRegs, Memory.getD_readRange, if_pos (Nat.lt_succ_of_le hk), State.byteAt]

theorem onlyChanges_loadedRegs (s : State) (x : Reg) :
    OnlyChanges (fun p => ∃ k : Reg, k.val ≤ x.val ∧ p = .v k) s (s.loadedRegs x) := by
  refine (onlyChanges_writeRegs s _).mono ?_
  rintro p ⟨k, hk, rfl⟩
  rw [Memory.length_readRange] at hk
  exact ⟨k, Nat.le_of_lt_succ hk, rfl⟩

end load

/-- Settles O28: Fx65 is one range load into the x + 1 registers, checked as a whole before the first write. -/
theorem loadRegistersUpToVx : Obligations.LoadRegistersUpToVx := by
  refine ⟨encoded_ldVxMem, fun x s => ⟨exec_ldVxMem_outOfBounds, fun h => ?loads⟩⟩
  case loads =>
    exact ⟨_, (exec_ldVxMem_inBounds h).trans (done_next _),
      fun k hk => (State.setPc_readV _ _ k).trans (s.loadedRegs_readV hk), nextPc_toNat (s.writeRegs_pc _),
      (onlyChanges_loadedRegs s x).nextPc⟩

end Sys2Proof.Machine
end

section
/-! PROOFS. The timer instructions (45_keys_timers.md R144 to R146): one byte moved between V[x] and DT or ST. -/

namespace Sys2Proof.Machine

/-! ## Frames of the timer setters -/

theorem onlyChanges_setDt (s : State) (b : Byte) : OnlyChanges (fun p => p = .dt) s (s.setDt b) := by
  intro p hp
  cases p
  case dt => exact absurd rfl hp
  all_goals rfl

theorem onlyChanges_setSt (s : State) (b : Byte) : OnlyChanges (fun p => p = .st) s (s.setSt b) := by
  intro p hp
  cases p
  case st => exact absurd rfl hp
  all_goals rfl

/-! ## Fx07, Fx15, Fx18 -/

theorem encoded_ldVxDt : Encoded 0xF0FF#16 0xF007#16 (fun w => .ldVxDt (xField w)) :=
  encoded_misc (nn := 0x07#8) fun w hnn => by simp [decodeMisc, hnn]

theorem encoded_ldDtVx : Encoded 0xF0FF#16 0xF015#16 (fun w => .ldDtVx (xField w)) :=
  encoded_misc (nn := 0x15#8) fun w hnn => by simp [decodeMisc, hnn]

theorem encoded_ldStVx : Encoded 0xF0FF#16 0xF018#16 (fun w => .ldStVx (xField w)) :=
  encoded_misc (nn := 0x18#8) fun w hnn => by simp [decodeMisc, hnn]

/-- Settles O37: each of the three is one write, of V[x], of DT or of ST, and PC moves on. -/
theorem timerInstructionsMoveBytes : Obligations.TimerInstructionsMoveBytes := by
  refine ⟨⟨encoded_ldVxDt, encoded_ldDtVx, encoded_ldStVx⟩, fun x s => ?_⟩
  rw [exec_ldVxDt, exec_ldDtVx, exec_ldStVx, done_writeV, done_next, done_next]
  refine ⟨⟨_, rfl, ?readsDt, s.wroteV_pc x _, onlyChanges_wroteV s x _⟩,
    ⟨_, rfl, ?writesDt, nextPc_toNat (s.setDt_pc _), (onlyChanges_setDt s _).nextPc⟩,
    ⟨_, rfl, ?writesSt, nextPc_toNat (s.setSt_pc _), (onlyChanges_setSt s _).nextPc⟩⟩
  case readsDt => exact s.wroteV_readV x s.dt
  case writesDt => rw [State.setPc_dt, State.setDt_dt]
  case writesSt => rw [State.setPc_st, State.setSt_st]

end Sys2Proof.Machine
end

section
/-! PROOFS. Errors keep the state (60_exceptions.md R155), and SetKey is the one write of one key (R164). -/

namespace Sys2Proof.Machine

/-- Settles O38: what R155 asks is the fault case of `perform`. -/
theorem errorsLeaveTheStateUnchanged : Obligations.ErrorsLeaveTheStateUnchanged :=
  fun _ _ _ => perform_step_fault

theorem onlyChanges_writeKey (s : State) (k : Reg) (d : Bool) :
    OnlyChanges (fun p => p = .key k) s (s.writeKey k d) := by
  intro p hp
  cases p
  case key j =>
    have hjk : j ≠ k := fun h => hp (congrArg Part.key h)
    exact (s.key_writeKey k j d).trans (if_neg hjk)
  all_goals rfl

/-- Settles O48: SetKey is `State.writeKey`, and a Step keeps the whole of KEY whatever it answers. -/
theorem setKeyWritesOneKey : Obligations.SetKeyWritesOneKey := by
  refine ⟨fun k down s => ⟨s.writeKey k down, rfl, ?writes, onlyChanges_writeKey s k down⟩, fun rnd s k => ?keeps⟩
  case writes => exact (s.key_writeKey k k down).trans (if_pos rfl)
  case keeps => rw [perform_step_key]

end Sys2Proof.Machine
end

section
/-! PROOFS. Decoding is undone by encoding: an instruction encodes to the word it was decoded from (30_encoding.md R61,
R65). -/

namespace Sys2Proof.Machine

variable {w : Word} {i : Instr}

/-! ## A word made of its fields, where some of them are known -/

theorem encodeNNN_of_fields {op : Nibble} {nnn : Imm12} (hop : opField w = op) (hnnn : nnnField w = nnn) :
    encodeNNN op nnn = w := by
  rw [← hop, ← hnnn, encodeNNN_fields]

theorem encodeXNN_of_fields {op : Nibble} {nn : Byte} (hop : opField w = op) (hnn : nnField w = nn) :
    encodeXNN op (xField w) nn = w := by
  rw [← hop, ← hnn, encodeXNN_fields]

theorem encodeXYN_of_fields {op n : Nibble} (hop : opField w = op) (hn : nField w = n) :
    encodeXYN op (xField w) (yField w) n = w := by
  rw [← hop, ← hn, encodeXYN_fields]

/-! ## One lemma per group of patterns -/

theorem encode_of_decodeZero (hop : opField w = 0x0#4) : encode (decodeZero w) = w := by
  unfold decodeZero
  split
  next hcls => exact encodeNNN_of_fields hop hcls
  next =>
    split
    next hret => exact encodeNNN_of_fields hop hret
    next => exact encodeNNN_of_fields hop rfl

theorem encode_of_decodeArith (hop : opField w = 0x8#4) (h : decodeArith w = some i) : encode i = w := by
  unfold decodeArith at h
  split at h <;> cases h <;> exact encodeXYN_of_fields hop ‹_›

theorem encode_of_decodeKeys (hop : opField w = 0xE#4) (h : decodeKeys w = some i) : encode i = w := by
  unfold decodeKeys at h
  split at h <;> cases h <;> exact encodeXNN_of_fields hop ‹_›

theorem encode_of_decodeMisc (hop : opField w = 0xF#4) (h : decodeMisc w = some i) : encode i = w := by
  unfold decodeMisc at h
  split at h <;> cases h <;> exact encodeXNN_of_fields hop ‹_›

/-- The split's case `h_k` is the first digit k - 1; the last, which `decodeWord` does not name, can only be 0xF. -/
theorem encode_of_decodeWord (h : decodeWord w = some i) : encode i = w := by
  unfold decodeWord at h
  split at h
  case h_1 hop => cases h; exact encode_of_decodeZero hop
  case h_9 hop => exact encode_of_decodeArith hop h
  case h_15 hop => exact encode_of_decodeKeys hop h
  case h_16 =>
    have hop : opField w = 0xF#4 := by
      generalize opField w = op at *
      revert op
      decide
    exact encode_of_decodeMisc hop h
  case h_6 hop | h_10 hop =>
    split at h <;> cases h
    exact encodeXYN_of_fields hop ‹_›
  case h_14 hop => cases h; exact encodeXYN_of_fields hop rfl
  case h_4 hop | h_5 hop | h_7 hop | h_8 hop | h_13 hop => cases h; exact encodeXNN_of_fields hop rfl
  case h_2 hop | h_3 hop | h_11 hop | h_12 hop => cases h; exact encodeNNN_of_fields hop rfl

end Sys2Proof.Machine
end

section
/-! PROOFS. The timers: a tick takes one from each, and of the instructions only Fx15 and Fx18 write one
(60_exceptions.md R161). -/

namespace Sys2Proof.Machine

/-! ## Which Step writes a timer -/

/-- A Step that goes on either was waiting or ran the instruction whose word it fetched. -/
theorem stepWith_next {rnd : Byte} {s t : State} (h : stepWith rnd s = .next t) :
    (s.wait = true ∧ t = resumeWait s) ∨ ∃ i, Fetches s (encode i) ∧ NextIs i (s.supplyRnd rnd) t := by
  obtain ⟨hw, hs⟩ | ⟨-, -, hs⟩ | ⟨-, -, hs⟩ | ⟨i, hf, hd, hs⟩ := stepWith_cases s rnd <;> rw [hs] at h
  · cases h
    exact .inl ⟨hw, rfl⟩
  · cases h
  · cases h
  · rw [← encode_of_decodeWord hd] at hf
    exact .inr ⟨i, hf, exec_next h⟩

theorem resumeWait_timers (s : State) : (resumeWait s).dt = s.dt ∧ (resumeWait s).st = s.st := by
  obtain ⟨k, -, h⟩ | ⟨-, h⟩ := resumeWait_cases s <;> simp [h]

/-- Of the setters a next state is built from, only those of Fx15 and Fx18 write a timer. -/
theorem NextIs.timers {i : Instr} {s t : State} (h : NextIs i s t) :
    (t.dt = s.dt ∨ ∃ x, i = .ldDtVx x) ∧ (t.st = s.st ∨ ∃ x, i = .ldStVx x) := by
  cases i
  case ldDtVx x => subst h; exact ⟨.inr ⟨x, rfl⟩, .inl rfl⟩
  case ldStVx x => subst h; exact ⟨.inl rfl, .inr ⟨x, rfl⟩⟩
  case sys => exact h.elim
  case ret => obtain ⟨k, hk, rfl⟩ := h; simp
  case call => obtain ⟨hsp, rfl⟩ := h; simp
  case seImm | sneImm | seReg | sneReg | skp | sknp => obtain rfl | rfl := h <;> simp
  case addReg | sub | subn | shr | shl => obtain ⟨f, r, rfl⟩ := h; simp
  case ldB | ldMemVx | ldVxMem => obtain ⟨_, rfl⟩ := h; simp
  all_goals
    subst h
    simp

theorem stepWith_next_timers {rnd : Byte} {s t : State} (h : stepWith rnd s = .next t) :
    (t.dt = s.dt ∨ ∃ x, Fetches s (encode (.ldDtVx x))) ∧ (t.st = s.st ∨ ∃ x, Fetches s (encode (.ldStVx x))) := by
  obtain ⟨-, rfl⟩ | ⟨i, hf, hnext⟩ := stepWith_next h
  · exact (resumeWait_timers s).imp .inl .inl
  · exact hnext.timers.imp (.imp_right fun ⟨x, hi⟩ => ⟨x, hi ▸ hf⟩) (.imp_right fun ⟨x, hi⟩ => ⟨x, hi ▸ hf⟩)

/-! ## The tick -/

theorem onlyChanges_tickTimers (s : State) : OnlyChanges (fun p => p = .dt ∨ p = .st) s (tickTimers s) :=
  ((onlyChanges_setDt s _).mono fun _ => .inl).trans ((onlyChanges_setSt _ _).mono fun _ => .inr)

/-- Settles O46: a tick is `tickTimers`, and a Step that changes a timer ran the one instruction that writes it, whose
words are those of its row of the opcode table. -/
theorem tickTakesOneFromEachTimer : Obligations.TickTakesOneFromEachTimer := by
  refine ⟨fun s => ⟨tickTimers s, rfl, ?dt, ?st, onlyChanges_tickTimers s⟩, fun s t rnd h => ⟨?dtWriter, ?stWriter⟩⟩
  case dt => rw [tickTimers_dt, tickDown_toNat]
  case st => rw [tickTimers_st, tickDown_toNat]
  case dtWriter =>
    intro hne
    obtain ⟨x, hf⟩ := (stepWith_next_timers h).1.resolve_left hne
    exact ⟨_, hf, Laws.EncodeFollowsTable.ldDtVx x⟩
  case stWriter =>
    intro hne
    obtain ⟨x, hf⟩ := (stepWith_next_timers h).2.resolve_left hne
    exact ⟨_, hf, Laws.EncodeFollowsTable.ldStVx x⟩

end Sys2Proof.Machine
end

section
/-! PROOFS. The decoder and the encoder (30_encoding.md R61 to R67). -/

namespace Sys2Proof.Machine

/-! ## Decoding an encoded instruction -/

/-- CLS and RET stand before SYS, so a SYS comes back exactly where it is well formed (R65). -/
theorem decodeWord_encode_sys {nnn : Imm12} (hwf : (Instr.sys nnn).wf = true) :
    decodeWord (encode (.sys nnn)) = some (.sys nnn) := by
  obtain ⟨hcls, hret⟩ : nnn ≠ 0x0E0#12 ∧ nnn ≠ 0x0EE#12 := by simpa [Instr.wf] using hwf
  simp [encode, decodeWord, decodeZero, hcls, hret]

/-- The first digit selects, then in the groups 8, E and F the last one or two; the operands are the fields. -/
theorem decodeWord_encode {i : Instr} (hwf : i.wf = true) : decodeWord (encode i) = some i := by
  cases i
  case sys => exact decodeWord_encode_sys hwf
  case cls | ret => decide
  case ldReg | or | and | xor | addReg | sub | shr | subn | shl => simp [encode, decodeWord, decodeArith]
  case skp | sknp => simp [encode, decodeWord, decodeKeys]
  case ldVxDt | ldVxK | ldDtVx | ldStVx | addI | ldF | ldB | ldMemVx | ldVxMem =>
    simp [encode, decodeWord, decodeMisc]
  all_goals simp [encode, decodeWord]

/-- Two bytes are decoded as the word they compose, and the bytes after them are left. -/
theorem decode_wordBytes {w : Word} {i : Instr} (rest : List Byte) (h : decodeWord w = some i) :
    decode (wordBytes w ++ rest) = .ok (i, rest) := by
  simp [wordBytes, decode, h]

/-- Settles O2: `decodeWord_encode`, read through the two bytes of the word. -/
theorem decodeOfEncodeGivesTheInstruction : Obligations.DecodeOfEncodeGivesTheInstruction :=
  fun _ rest hwf => ⟨decodeWord_encode hwf, decode_wordBytes rest (decodeWord_encode hwf)⟩

end Sys2Proof.Machine
end

section
/-! PROOFS. What each instruction writes (10_state.md section 1, the column "Written by"; R12). -/

namespace Sys2Proof.Machine

/-! ## Frames of the remaining setters -/

section frames
variable (s : State)

theorem onlyChanges_setFb (f : Framebuffer) :
    OnlyChanges (fun p => ∃ row col, p = .pixel row col) s (s.setFb f) := by
  intro p hp
  cases p
  case pixel row col => exact absurd ⟨row, col, rfl⟩ hp
  all_goals rfl

theorem onlyChanges_setMem (m : Memory) : OnlyChanges (fun p => ∃ a, p = .mem a) s (s.setMem m) := by
  intro p hp
  cases p
  case mem a => exact absurd ⟨a, rfl⟩ hp
  all_goals rfl

/-- `VF <- f; V[x] <- r`, the effect of 8xy4, 8xy5 and 8xy7 beside PC. -/
theorem onlyChanges_flagThenV (x : Reg) (f r : Byte) :
    OnlyChanges (fun p => p = .v x ∨ p = .v regF) s ((s.writeV 15 f).writeV x r) :=
  ((onlyChanges_writeV s 15 f).mono fun _ => .inr).trans ((onlyChanges_writeV _ x r).mono fun _ => .inl)

/-- `VF <- f; V[y] <- r; V[x] <- r`, the effect of 8xy6 and 8xyE beside PC. -/
theorem onlyChanges_flagThenVs (x y : Reg) (f r : Byte) :
    OnlyChanges (fun p => p = .v x ∨ p = .v y ∨ p = .v regF) s (((s.writeV 15 f).writeV y r).writeV x r) :=
  ((onlyChanges_flagThenV s y f r).mono fun _ => .inr).trans ((onlyChanges_writeV _ x r).mono fun _ => .inl)

/-- The framebuffer, then VF: the effect of Dxyn beside PC. -/
theorem onlyChanges_drawn (f : Framebuffer) (b : Byte) :
    OnlyChanges (fun p => p = .v regF ∨ ∃ row col, p = .pixel row col) s ((s.setFb f).writeV 15 b) :=
  ((onlyChanges_setFb s f).mono fun _ => .inr).trans ((onlyChanges_writeV _ 15 b).mono fun _ => .inl)

/-- WAITX, KPREV and WAIT: the effect of Fx0A. -/
theorem onlyChanges_suspend (x : Reg) :
    OnlyChanges (fun p => p = .wait ∨ p = .waitx ∨ ∃ k, p = .kprev k) s
      ((s.setWaitx x).snapshotKeys.setWait true) := by
  intro p hp
  cases p
  case wait => exact absurd (.inl rfl) hp
  case waitx => exact absurd (.inr (.inl rfl)) hp
  case kprev k => exact absurd (.inr (.inr ⟨k, rfl⟩)) hp
  all_goals rfl

end frames

/-! ## The table of writers -/

/-- The parts an instruction may write: the rows of the column "Written by" that name it. -/
def MayWrite (i : Instr) (p : Part) : Prop :=
  match i with
  | .sys _ => False
  | .jp _ | .jpV0 _ | .seImm _ _ | .sneImm _ _ | .seReg _ _ | .sneReg _ _ | .skp _ | .sknp _ => p = .pc
  | .cls => p = .pc ∨ ∃ row col, p = .pixel row col
  | .ret => p = .pc ∨ p = .sp
  | .call _ => p = .pc ∨ p = .sp ∨ ∃ k, p = .stack k
  | .ldImm x _ | .addImm x _ | .ldReg x _ | .or x _ | .and x _ | .xor x _ | .rnd x _ | .ldVxDt x =>
    p = .pc ∨ p = .v x
  | .addReg x _ | .sub x _ | .subn x _ => p = .pc ∨ p = .v x ∨ p = .v regF
  | .shr x y | .shl x y => p = .pc ∨ p = .v x ∨ p = .v y ∨ p = .v regF
  | .ldI _ | .addI _ | .ldF _ => p = .pc ∨ p = .i
  | .drw _ _ _ => p = .pc ∨ p = .v regF ∨ ∃ row col, p = .pixel row col
  | .ldVxK _ => p = .wait ∨ p = .waitx ∨ ∃ k, p = .kprev k
  | .ldDtVx _ => p = .pc ∨ p = .dt
  | .ldStVx _ => p = .pc ∨ p = .st
  | .ldB _ | .ldMemVx _ => p = .pc ∨ ∃ a, p = .mem a
  | .ldVxMem x => p = .pc ∨ ∃ k : Reg, k.val ≤ x.val ∧ p = .v k

/-- THE FRAME OF EVERY INSTRUCTION: the setters of its next state write no part but those of its rows. -/
theorem NextIs.onlyChanges {i : Instr} {s t : State} (h : NextIs i s t) : OnlyChanges (MayWrite i) s t := by
  cases i
  case sys => exact h.elim
  case jp | jpV0 => subst h; exact onlyChanges_setPc s _
  case seImm | sneImm | seReg | sneReg | skp | sknp => obtain rfl | rfl := h <;> exact onlyChanges_setPc s _
  case cls => subst h; exact (onlyChanges_setFb s _).nextPc
  case ret =>
    obtain ⟨k, hk, rfl⟩ := h
    exact ((onlyChanges_setSp s _).mono fun _ => .inr).trans ((onlyChanges_setPc _ _).mono fun _ => .inl)
  case call nnn =>
    obtain ⟨hsp, rfl⟩ := h
    exact (onlyChanges_called s ⟨s.sp.val, hsp⟩ nnn).mono fun _ => .imp_right (.imp_right fun hp => ⟨_, hp⟩)
  case ldImm | addImm | ldReg | or | and | xor | rnd | ldVxDt => subst h; exact (onlyChanges_writeV s _ _).nextPc
  case addReg | sub | subn => obtain ⟨f, r, rfl⟩ := h; exact (onlyChanges_flagThenV s _ f r).nextPc
  case shr | shl => obtain ⟨f, r, rfl⟩ := h; exact (onlyChanges_flagThenVs s _ _ f r).nextPc
  case ldI | addI | ldF => subst h; exact (onlyChanges_setI s _).nextPc
  case drw => subst h; exact (onlyChanges_drawn s _ _).nextPc
  case ldVxK x => subst h; exact onlyChanges_suspend s x
  case ldDtVx => subst h; exact (onlyChanges_setDt s _).nextPc
  case ldStVx => subst h; exact (onlyChanges_setSt s _).nextPc
  case ldB | ldMemVx => obtain ⟨-, rfl⟩ := h; exact (onlyChanges_setMem s _).nextPc
  case ldVxMem x => obtain ⟨-, rfl⟩ := h; exact (onlyChanges_loadedRegs s x).nextPc

/-! ## The table read by columns: which instructions write a given part, row by row -/

section writers
variable {i : Instr}

theorem mayWrite_mem {a : Nat} (h : MayWrite i (.mem a)) : ∃ x, i = .ldB x ∨ i = .ldMemVx x := by
  cases i <;> simp [MayWrite] at h ⊢

theorem mayWrite_v {x : Reg} (h : MayWrite i (.v x)) :
    (∃ nn, i = .ldImm x nn ∨ i = .addImm x nn ∨ i = .rnd x nn) ∨
      (∃ y, i = .ldReg x y ∨ i = .or x y ∨ i = .and x y ∨ i = .xor x y) ∨
      (∃ d y, (i = .addReg d y ∨ i = .sub d y ∨ i = .subn d y) ∧ (x = d ∨ x = regF)) ∨
      (∃ d y, (i = .shr d y ∨ i = .shl d y) ∧ (x = d ∨ x = y ∨ x = regF)) ∨
      (∃ a b n, i = .drw a b n ∧ x = regF) ∨
      i = .ldVxDt x ∨
      ∃ last : Reg, i = .ldVxMem last ∧ x.val ≤ last.val := by
  cases i <;> simp [MayWrite] at h ⊢ <;> simp [h]

theorem mayWrite_i (h : MayWrite i .i) : (∃ nnn, i = .ldI nnn) ∨ ∃ x, i = .addI x ∨ i = .ldF x := by
  cases i <;> simp [MayWrite] at h ⊢

theorem mayWrite_pc (h : MayWrite i .pc) (x : Reg) : i ≠ .ldVxK x := by
  rintro rfl
  simp [MayWrite] at h

theorem mayWrite_stack {k : Reg} (h : MayWrite i (.stack k)) : ∃ nnn, i = .call nnn := by
  cases i <;> simp [MayWrite] at h ⊢

theorem mayWrite_sp (h : MayWrite i .sp) : i = .ret ∨ ∃ nnn, i = .call nnn := by
  cases i <;> simp [MayWrite] at h ⊢

theorem mayWrite_dt (h : MayWrite i .dt) : ∃ x, i = .ldDtVx x := by
  cases i <;> simp [MayWrite] at h ⊢

theorem mayWrite_st (h : MayWrite i .st) : ∃ x, i = .ldStVx x := by
  cases i <;> simp [MayWrite] at h ⊢

theorem mayWrite_pixel {row : Fin 32} {col : Fin 64} (h : MayWrite i (.pixel row col)) :
    i = .cls ∨ ∃ x y n, i = .drw x y n := by
  cases i <;> simp [MayWrite] at h ⊢

theorem mayWrite_latch (h : MayWrite i .wait ∨ MayWrite i .waitx ∨ ∃ k, MayWrite i (.kprev k)) :
    ∃ x, i = .ldVxK x := by
  cases i <;> simp [MayWrite] at h ⊢

theorem not_mayWrite_env : ¬ MayWrite i .env := by
  cases i <;> simp [MayWrite]

end writers

/-! ## Each part and VF by their writers -/

theorem OnlyChanges.of_changed {P : Part → Prop} {s t : State} (h : OnlyChanges P s t) {p : Part}
    (hne : ¬ p.same s t) : P p :=
  Classical.byContradiction fun hp => hne (h p hp)

theorem exists_pixel_ne {s t : State} (h : t.fb ≠ s.fb) : ∃ row col, t.pixel row col ≠ s.pixel row col := by
  by_contra hall
  push Not at hall
  exact h (Vector.ext fun r hr => Vector.ext fun c hc => hall ⟨r, hr⟩ ⟨c, hc⟩)

theorem exists_kprev_ne {s t : State} (h : t.kprev ≠ s.kprev) : ∃ k : Reg, t.kprev[k] ≠ s.kprev[k] := by
  by_contra hall
  push Not at hall
  exact h (Vector.ext fun k hk => hall ⟨k, hk⟩)

/-- Settles O41: a part that changed is one the instruction may write, and each column of `MayWrite` is a clause. -/
theorem eachPartHasItsWriters : Obligations.EachPartHasItsWriters := by
  intro i s t h
  have frame : OnlyChanges (MayWrite i) s t := (exec_next h).onlyChanges
  refine ⟨?mem, ?v, ?index, ?pc, ?stack, ?sp, ?dt, ?st, ?fb, ?latch, (exec_next h).key_eq, frame .env not_mayWrite_env⟩
  case mem => exact fun ⟨a, ha⟩ => mayWrite_mem (frame.of_changed (p := .mem a) ha)
  case v => exact fun x hx => mayWrite_v (frame.of_changed (p := .v x) hx)
  case index => exact fun hi => mayWrite_i (frame.of_changed (p := .i) hi)
  case pc => exact fun hpc => mayWrite_pc (frame.of_changed (p := .pc) hpc)
  case stack => exact fun ⟨k, hk⟩ => mayWrite_stack (frame.of_changed (p := .stack k) hk)
  case sp => exact fun hsp => mayWrite_sp (frame.of_changed (p := .sp) hsp)
  case dt => exact fun hdt => mayWrite_dt (frame.of_changed (p := .dt) hdt)
  case st => exact fun hst => mayWrite_st (frame.of_changed (p := .st) hst)
  case fb =>
    intro hfb
    obtain ⟨row, col, hpix⟩ := exists_pixel_ne hfb
    exact mayWrite_pixel (frame.of_changed (p := .pixel row col) hpix)
  case latch =>
    refine fun hl => mayWrite_latch (hl.imp (frame.of_changed (p := .wait))
      (.imp (frame.of_changed (p := .waitx)) fun hk => ?_))
    obtain ⟨k, hk⟩ := exists_kprev_ne hk
    exact ⟨k, frame.of_changed (p := .kprev k) hk⟩

/-- Settles O42: the clause of O41 on V[x], read at x = 0xF. -/
theorem flagRegisterHasItsWriters : Obligations.FlagRegisterHasItsWriters := by
  intro i s t h hne
  obtain ⟨-, writers, -⟩ := eachPartHasItsWriters i s t h
  obtain himm | hreg | ⟨d, y, hi, -⟩ | ⟨d, y, hi, -⟩ | ⟨a, b, n, hi, -⟩ | hdt | ⟨last, rfl, hlast⟩ := writers regF hne
  · exact .inr (.inr (.inl himm))
  · exact .inr (.inr (.inr (.inl hreg)))
  · exact .inl ⟨d, y, by tauto⟩
  · exact .inl ⟨d, y, by tauto⟩
  · exact .inr (.inl ⟨a, b, n, hi⟩)
  · exact .inr (.inr (.inr (.inr (.inl hdt))))
  · obtain rfl : last = regF := Fin.ext (Nat.le_antisymm (Nat.le_of_lt_succ last.isLt) hlast)
    exact .inr (.inr (.inr (.inr (.inr rfl))))

end Sys2Proof.Machine
end

section
/-! PROOFS. The invariant of 10_state.md R32 holds at reset, and every operation keeps it. -/

namespace Sys2Proof.Machine

/-! ## Memory -/

/-- Every change of memory is one range store inside its 4096 bytes. -/
theorem NextIs.mem_cases {i : Instr} {s t : State} (h : NextIs i s t) :
    t.mem = s.mem ∨
      ∃ a bytes, a + bytes.length ≤ 4096 ∧ t.mem = Memory.writeRange s.mem a bytes := by
  cases i
  case ldB x => obtain ⟨hfit, rfl⟩ := h; exact .inr ⟨_, decimalDigits (s.readV x), hfit, rfl⟩
  case ldMemVx x =>
    obtain ⟨hfit, rfl⟩ := h
    exact .inr ⟨_, s.regsUpTo x, by rwa [State.length_regsUpTo], rfl⟩
  case sys => exact h.elim
  case ret => obtain ⟨k, hk, rfl⟩ := h; exact .inl rfl
  case call => obtain ⟨hsp, rfl⟩ := h; exact .inl rfl
  case seImm | sneImm | seReg | sneReg | skp | sknp => obtain rfl | rfl := h <;> exact .inl rfl
  case addReg | sub | subn | shr | shl => obtain ⟨f, r, rfl⟩ := h; exact .inl rfl
  case ldVxMem => obtain ⟨_, rfl⟩ := h; exact .inl rfl
  all_goals
    subst h
    exact .inl rfl

theorem NextIs.wf_mem {i : Instr} {s t : State} (h : NextIs i s t) (hwf : Memory.wf s.mem = true) :
    Memory.wf t.mem = true := by
  obtain hmem | ⟨a, bytes, hfit, hmem⟩ := h.mem_cases <;> rw [hmem]
  · exact hwf
  · exact Memory.wf_writeRange hwf hfit

/-! ## PC -/

theorem byte16_toNat (b : Byte) : (byte16 b).toNat = b.toNat :=
  BitVec.toNat_setWidth_of_le (by decide)

/-- The sum of Bnnn does not wrap at 16 bits: 0xFFF + 0xFF is 0x10FE (R84). -/
theorem jumpV0_target_toNat (nnn : Imm12) (b : Byte) : (addr16 nnn + byte16 b).toNat = nnn.toNat + b.toNat := by
  have hnnn := nnn.isLt
  have hb := b.isLt
  rw [BitVec.toNat_add, addr16_toNat, byte16_toNat]
  omega

/-- An address an instruction was fetched at does not wrap when PC moves on. -/
theorem fetched_next_toNat {w : Word} (hw : w.toNat ≤ 0xFFE) : (w + 2#16).toNat = w.toNat + 2 := by
  rw [BitVec.toNat_add, BitVec.toNat_ofNat]
  omega

theorem fetched_skip_toNat {w : Word} (hw : w.toNat ≤ 0xFFE) : (w + 4#16).toNat = w.toNat + 4 := by
  rw [BitVec.toNat_add, BitVec.toNat_ofNat]
  omega

/-- The largest PC an instruction leaves is Bnnn's. -/
theorem NextIs.pc_le {i : Instr} {s t : State} (h : NextIs i s t) (inv : Invariant s) (hpc : s.pc.toNat ≤ 0xFFE) :
    t.pc.toNat ≤ 0x10FE := by
  have hnext := fetched_next_toNat hpc
  have hskip := fetched_skip_toNat hpc
  cases i
  case sys => exact h.elim
  case jp nnn => subst h; have := nnn.isLt; simp; omega
  case call nnn => obtain ⟨hsp, rfl⟩ := h; have := nnn.isLt; simp; omega
  case jpV0 nnn =>
    subst h
    have hnnn := nnn.isLt
    have hv0 := (s.readV 0).isLt
    rw [State.setPc_pc, jumpV0_target_toNat]
    omega
  case ret =>
    obtain ⟨k, hk, rfl⟩ := h
    have hentry := inv.liveStack ⟨k, by omega⟩ (show k < s.sp.val by omega)
    rw [State.setPc_pc, fetched_next_toNat hentry]
    omega
  case seImm | sneImm | seReg | sneReg | skp | sknp =>
    obtain rfl | rfl := h
    · rw [State.setPc_pc]; omega
    · rw [State.setPc_pc]; omega
  case addReg | sub | subn | shr | shl => obtain ⟨f, r, rfl⟩ := h; simp; omega
  case ldB | ldMemVx | ldVxMem => obtain ⟨_, rfl⟩ := h; simp; omega
  all_goals
    subst h
    simp
    omega

/-! ## The stack -/

/-- What an instruction does to the live entries: CALL adds PC, RET drops the top one, the others keep them. -/
theorem NextIs.live_entry {i : Instr} {s t : State} (h : NextIs i s t) {k : Reg} (hk : k.val < t.sp.val) :
    t.stackAt k = s.pc ∨ (k.val < s.sp.val ∧ t.stackAt k = s.stackAt k) := by
  by_cases hcall : ∃ nnn, i = .call nnn
  · obtain ⟨nnn, rfl⟩ := hcall
    obtain ⟨hsp, rfl⟩ := h
    have hk : k.val < s.sp.val + 1 := hk
    by_cases hkey : k = ⟨s.sp.val, hsp⟩
    · exact .inl ((s.stackAt_writeStack _ k _).trans (if_pos hkey))
    · have hne : k.val ≠ s.sp.val := fun h => hkey (Fin.ext h)
      exact .inr ⟨by omega, (s.stackAt_writeStack _ k _).trans (if_neg hkey)⟩
  · have hstack : t.stackAt k = s.stackAt k := h.onlyChanges (.stack k) fun hw => hcall (mayWrite_stack hw)
    refine .inr ⟨?_, hstack⟩
    by_cases hret : i = .ret
    · subst hret
      obtain ⟨n, hn, rfl⟩ := h
      have hk : k.val < n := hk
      omega
    · have hsp : t.sp = s.sp := h.onlyChanges .sp fun hw => (mayWrite_sp hw).elim hret hcall
      rwa [hsp] at hk

/-! ## The Step -/

/-- An instruction fetched from a state with the invariant leaves one with it. -/
theorem NextIs.invariant {i : Instr} {s t : State} (h : NextIs i s t) (inv : Invariant s) (hw : s.wait = false)
    (hpc : s.pc.toNat ≤ 0xFFE) : Invariant t where
  memory := h.wf_mem inv.memory
  pcBound := h.pc_le inv hpc
  liveStack k hk := by
    obtain hpush | ⟨hlive, hkept⟩ := h.live_entry hk
    · rwa [hpush]
    · rw [hkept]
      exact inv.liveStack k hlive
  waitFetched ht := by
    have hne : t.wait ≠ s.wait := by simp [ht, hw]
    obtain ⟨x, rfl⟩ := mayWrite_latch (.inl (h.onlyChanges.of_changed (p := .wait) hne))
    rwa [show t.pc = s.pc from h.onlyChanges .pc fun hpc => mayWrite_pc hpc x rfl]

/-- The invariant does not speak of the environment's side. -/
theorem Invariant.setEnv {s : State} (inv : Invariant s) (e : Env) : Invariant (s.setEnv e) :=
  ⟨inv.memory, inv.pcBound, inv.liveStack, inv.waitFetched⟩

/-- Beside memory's form the invariant speaks of PC, SP, the stack and WAIT alone. -/
theorem Invariant.of_same {s t : State} (inv : Invariant s) (hmem : Memory.wf t.mem = true) (hpc : t.pc = s.pc)
    (hsp : t.sp = s.sp) (hstack : ∀ k, t.stackAt k = s.stackAt k) (hwait : t.wait = s.wait) : Invariant t where
  memory := hmem
  pcBound := hpc ▸ inv.pcBound
  liveStack k hk := hstack k ▸ inv.liveStack k (hsp ▸ hk)
  waitFetched hw := hpc ▸ inv.waitFetched (hwait ▸ hw)

theorem Invariant.resumeWait {s : State} (inv : Invariant s) (hw : s.wait = true) : Invariant (resumeWait s) := by
  have hpc : s.pc.toNat ≤ 0xFFE := inv.waitFetched hw
  obtain ⟨k, -, h⟩ | ⟨-, h⟩ := resumeWait_cases s <;> rw [h]
  · refine ⟨inv.memory, ?_, inv.liveStack, fun hwait => nomatch hwait⟩
    have hnext : (s.pc + 2#16).toNat ≤ 0x10FE := by rw [fetched_next_toNat hpc]; omega
    exact hnext
  · exact ⟨inv.memory, inv.pcBound, inv.liveStack, inv.waitFetched⟩

theorem Invariant.stepWith {rnd : Byte} {s t : State} (inv : Invariant s) (h : stepWith rnd s = .next t) :
    Invariant t := by
  obtain ⟨hw, rfl⟩ | ⟨i, ⟨hw, hpc, -⟩, hnext⟩ := stepWith_next h
  · exact inv.resumeWait hw
  · exact hnext.invariant (inv.setEnv _) hw (Nat.le_of_succ_le_succ hpc)

/-! ## The environment's operations -/

/-- Settles O56: at reset memory is empty, PC is 0x200, no entry is live and no Fx0A is suspended. -/
theorem resetSatisfiesTheInvariant : Obligations.ResetSatisfiesTheInvariant where
  memory := rfl
  pcBound := by decide
  liveStack k hk := absurd hk (Nat.not_lt_zero k.val)
  waitFetched h := nomatch h

theorem driverMove_load_fits {bytes : List Byte} (s : State) (h : loadFits bytes = true) :
    driverMove (.load bytes) s = (loadProgram bytes s, .ok) := if_pos h

theorem driverMove_load_tooLarge {bytes : List Byte} (s : State) (h : ¬ loadFits bytes = true) :
    driverMove (.load bytes) s = (s, .loadTooLarge) := if_neg h

theorem Invariant.driverMove {s : State} (inv : Invariant s) (d : DriverOp) : Invariant (driverMove d s).1 := by
  cases d with
  | powerOn => exact resetSatisfiesTheInvariant.setEnv s.env
  | load bytes =>
    by_cases hfit : loadFits bytes = true
    · rw [driverMove_load_fits s hfit]
      exact inv.of_same (wf_loadProgram inv.memory ((loadFits_iff bytes).mp hfit)) (loadProgram_pc s bytes)
        (loadProgram_sp s bytes) (loadProgram_stackAt s bytes) (loadProgram_wait s bytes)
    · rwa [driverMove_load_tooLarge s hfit]
  | loadFont =>
    exact inv.of_same (wf_loadFont inv.memory) (loadFont_pc s) (loadFont_sp s) (loadFont_stackAt s) (loadFont_wait s)
  | init =>
    have hstart : (0x200#16).toNat ≤ 0x10FE := by decide
    exact ⟨inv.memory, hstart, fun k hk => absurd hk (Nat.not_lt_zero k.val), fun h => nomatch h⟩
  | tickTimers | setKey | observe => exact ⟨inv.memory, inv.pcBound, inv.liveStack, inv.waitFetched⟩

/-- Settles O57: the host's step is a Step or a driver operation on the same state but for the environment's side. -/
theorem stepKeepsTheInvariant : Obligations.StepKeepsTheInvariant := by
  intro s t inv h
  obtain ⟨rnd, e, hs⟩ | ⟨d, e, hs⟩ := step_cases s <;> rw [hs] at h
  · exact (inv.setEnv e).stepWith h
  · cases h
    exact (inv.setEnv e).driverMove d

/-- A Step that raises leaves the state it found, so nothing is to be shown of it. -/
theorem Invariant.perform {s : State} (inv : Invariant s) (op : Operation) : Invariant (perform op s).1 := by
  cases op with
  | driver d => exact inv.driverMove d
  | step rnd =>
    obtain h | h := perform_step_cases rnd s
    · exact inv.stepWith h
    · rwa [h]

theorem Invariant.performAll {s : State} (inv : Invariant s) (ops : List Operation) :
    Invariant (performAll ops s) := by
  induction ops generalizing s with
  | nil => exact inv
  | cons op rest ih => exact ih (inv.perform op)

/-- Settles O58: the invariant holds at reset and every operation keeps it, so it holds after any list of them. -/
theorem reachableStatesSatisfyTheInvariant : Obligations.ReachableStatesSatisfyTheInvariant :=
  ⟨fun op _ inv => inv.perform op, resetSatisfiesTheInvariant,
    fun _ ⟨ops, h⟩ => h ▸ Invariant.performAll resetSatisfiesTheInvariant ops⟩

end Sys2Proof.Machine
end

section
/-! PROOFS. The decoder against the opcode table (30_encoding.md R65, R66). -/

namespace Sys2Proof.Machine

variable {w : Word} {i : Instr}

/-- Settles O1: fourteen words, each decoded. -/
theorem wordsOfEachFormatDecode : Obligations.WordsOfEachFormatDecode := by
  unfold Obligations.WordsOfEachFormatDecode
  decide

/-! ## One meaning for each word -/

/-- SYS is the one constructor with an ill-formed term, and its two ill-formed words decode to CLS and RET. -/
theorem wf_of_decodeWord (h : decodeWord w = some i) : i.wf = true := by
  have hw : encode i = w := encode_of_decodeWord h
  subst hw
  cases i
  case sys nnn =>
    have hcls : nnn ≠ 0x0E0#12 := by rintro rfl; exact absurd h (by decide)
    have hret : nnn ≠ 0x0EE#12 := by rintro rfl; exact absurd h (by decide)
    simp [Instr.wf, hcls, hret]
  all_goals rfl

/-- Settles O3: the decoded instruction is well formed and encodes to the word. -/
theorem encodeOfDecodeGivesTheWord : Obligations.EncodeOfDecodeGivesTheWord :=
  fun _ _ h => ⟨wf_of_decodeWord h, encode_of_decodeWord h⟩

/-! ## The rows of the table -/

/-- The table is the rows of the 35 constructors, in order; the operands of the terms listed do not matter. -/
theorem opcodeTable_eq_rows : opcodeTable =
    ([.cls, .ret, .sys 0, .jp 0, .call 0, .seImm 0 0, .sneImm 0 0, .seReg 0 0, .ldImm 0 0, .addImm 0 0, .ldReg 0 0,
      .or 0 0, .and 0 0, .xor 0 0, .addReg 0 0, .sub 0 0, .shr 0 0, .subn 0 0, .shl 0 0, .sneReg 0 0, .ldI 0, .jpV0 0,
      .rnd 0 0, .drw 0 0 0, .skp 0, .sknp 0, .ldVxDt 0, .ldVxK 0, .ldDtVx 0, .ldStVx 0, .addI 0, .ldF 0, .ldB 0,
      .ldMemVx 0, .ldVxMem 0] : List Instr).map Instr.row := rfl

theorem row_mem_opcodeTable (i : Instr) : i.row ∈ opcodeTable := by
  rw [opcodeTable_eq_rows]
  cases i <;> simp [Instr.row]

/-- An encoded instruction has the fixed digits of its row. -/
theorem encode_mask_row (i : Instr) : encode i &&& i.row.mask = i.row.pattern := by
  cases i
  case cls | ret => rfl
  case sys | jp | call | ldI | jpV0 => exact encodeNNN_mask _ _
  case seImm | sneImm | ldImm | addImm | rnd => exact encodeXNN_mask _ _ _
  case drw => exact encodeXYN_mask _ _ _ _
  case skp | sknp | ldVxDt | ldVxK | ldDtVx | ldStVx | addI | ldF | ldB | ldMemVx | ldVxMem =>
    exact encodeXNN_mask_low _ _ _
  case seReg | sneReg | ldReg | or | and | xor | addReg | sub | shr | subn | shl => exact encodeXYN_mask_low _ _ _ _

theorem matchesWord_row_of_decodeWord (h : decodeWord w = some i) : i.row.matchesWord w = true := by
  rw [← encode_of_decodeWord h]
  exact beq_iff_eq.mpr (encode_mask_row i)

/-- A word with the fixed digits of a row stands for some instruction: for SYS's row that may be CLS or RET. -/
theorem decodeWord_ne_none_of_row (hrow : w &&& i.row.mask = i.row.pattern) : decodeWord w ≠ none := by
  cases i
  case cls | ret =>
    have hw : w = _ := (BitVec.and_allOnes (x := w)).symm.trans hrow
    subst hw
    decide
  case sys | jp | call | seImm | sneImm | ldImm | addImm | ldI | jpV0 | rnd | drw =>
    have hop := opField_of_mask hrow
    simp [decodeWord, Instr.row, hop]
  case seReg | sneReg =>
    obtain ⟨hop, hn⟩ := fields_of_mask_XY hrow
    simp [decodeWord, Instr.row, hop, hn]
  case ldReg | or | and | xor | addReg | sub | shr | subn | shl =>
    obtain ⟨hop, hn⟩ := fields_of_mask_XY hrow
    simp [decodeWord, Instr.row, decodeArith, hop, hn]
  case skp | sknp =>
    obtain ⟨hop, hnn⟩ := fields_of_mask_X hrow
    simp [decodeWord, Instr.row, decodeKeys, hop, hnn]
  case ldVxDt | ldVxK | ldDtVx | ldStVx | addI | ldF | ldB | ldMemVx | ldVxMem =>
    obtain ⟨hop, hnn⟩ := fields_of_mask_X hrow
    simp [decodeWord, Instr.row, decodeMisc, hop, hnn]

/-- The words that stand for nothing are those that match no row. -/
theorem decodeWord_eq_none_iff_no_row : decodeWord w = none ↔ ∀ r ∈ opcodeTable, r.matchesWord w = false := by
  constructor
  · intro h r hr
    rw [opcodeTable_eq_rows] at hr
    obtain ⟨i, -, rfl⟩ := List.mem_map.mp hr
    exact Bool.eq_false_iff.mpr fun hm => decodeWord_ne_none_of_row (beq_iff_eq.mp hm) h
  · intro h
    by_contra hne
    obtain ⟨i, hi⟩ := Option.ne_none_iff_exists'.mp hne
    exact absurd (matchesWord_row_of_decodeWord hi) (Bool.eq_false_iff.mp (h _ (row_mem_opcodeTable i)))

/-! ## The five groups of reserved words -/

theorem decodeArith_eq_none_iff : decodeArith w = none ↔ 7 < (nField w).toNat ∧ nField w ≠ 0xE#4 := by
  unfold decodeArith
  generalize nField w = n
  split
  case h_10 => revert n; decide
  all_goals simp

theorem decodeKeys_eq_none_iff : decodeKeys w = none ↔ nnField w ≠ 0x9E#8 ∧ nnField w ≠ 0xA1#8 := by
  unfold decodeKeys
  split <;> simp_all

theorem decodeMisc_eq_none_iff : decodeMisc w = none ↔
    nnField w ∉ [0x07#8, 0x0A#8, 0x15#8, 0x18#8, 0x1E#8, 0x29#8, 0x33#8, 0x55#8, 0x65#8] := by
  unfold decodeMisc
  split <;> simp_all

theorem decodeWord_eq_none_iff_reserved : decodeWord w = none ↔
    (opField w = 0x5#4 ∧ nField w ≠ 0#4) ∨
      (opField w = 0x8#4 ∧ 7 < (nField w).toNat ∧ nField w ≠ 0xE#4) ∨
      (opField w = 0x9#4 ∧ nField w ≠ 0#4) ∨
      (opField w = 0xE#4 ∧ nnField w ≠ 0x9E#8 ∧ nnField w ≠ 0xA1#8) ∨
      (opField w = 0xF#4 ∧
        nnField w ∉ [0x07#8, 0x0A#8, 0x15#8, 0x18#8, 0x1E#8, 0x29#8, 0x33#8, 0x55#8, 0x65#8]) := by
  rw [← decodeArith_eq_none_iff, ← decodeKeys_eq_none_iff, ← decodeMisc_eq_none_iff]
  unfold decodeWord
  split
  case h_16 =>
    have hop : opField w = 0xF#4 := by
      generalize opField w = op at *
      revert op
      decide
    simp [hop]
  all_goals simp [*]

/-- Settles O4: no row matches a word that decodes to nothing, the row of the decoded instruction matches the word,
and the first digit with the last one or two tells the reserved words. -/
theorem decoderFollowsTheOpcodeTable : Obligations.DecoderFollowsTheOpcodeTable :=
  fun _ => ⟨decodeWord_eq_none_iff_no_row, decodeWord_eq_none_iff_reserved,
    fun i h => ⟨row_mem_opcodeTable i, matchesWord_row_of_decodeWord h⟩⟩

end Sys2Proof.Machine
end

section
/-! PROOFS. The host's step (30_encoding.md section 2), and the control transfers SYS, RET and JP V0 (40_flow.md). -/

namespace Sys2Proof.Machine

/-! ## The host's step -/

/-- Settles O5: the fetch and the wait do not look at the environment's side, which the step has moved on. -/
theorem stepRunsTheDecodedInstruction : Obligations.StepRunsTheDecodedInstruction := by
  intro s w i hf hd
  have fetched : ∀ rnd e, stepWith rnd (s.setEnv e) = exec i ((s.setEnv e).supplyRnd rnd) :=
    fun rnd e => stepWith_fetches (s := s.setEnv e) rnd hf hd
  exact ⟨fun _ _ h => (step_scripted_step h).trans (fetched _ _), fun h => (step_unscripted h).trans (fetched _ _)⟩

/-- Settles O7: the step that reaches a scripted operation performs it on the rest of the script. -/
theorem scriptedOperationIsPerformed : Obligations.ScriptedOperationIsPerformed :=
  fun _ _ _ h => step_scripted_driver h

/-! ## Words with every digit fixed -/

/-- A row without operands holds one word. -/
theorem encoded_literal {p : Word} {i : Instr} (h : decodeWord p = some i) : Encoded 0xFFFF#16 p fun _ => i := by
  intro w hw
  rwa [← hw, show 0xFFFF#16 = BitVec.allOnes 16 from rfl, BitVec.and_allOnes] at h

theorem encoded_ret : Encoded 0xFFFF#16 0x00EE#16 fun _ => .ret := encoded_literal (by decide)

/-! ## 0nnn -/

theorem encodeNNN_zero (nnn : Imm12) : encodeNNN 0x0#4 nnn = addr16 nnn :=
  BitVec.eq_of_toNat_eq ((BitVec.toNat_append 0#4 nnn).trans (by simp))

theorem decodeWord_sys {w : Word} (hw : w &&& 0xF000#16 = 0x0000#16) (hcls : w ≠ 0x00E0#16) (hret : w ≠ 0x00EE#16) :
    decodeWord w = some (.sys (nnnField w)) := by
  have hop : opField w = 0x0#4 := opField_of_mask hw
  have hnotCls : nnnField w ≠ 0x0E0#12 := fun h => hcls (encodeNNN_of_fields hop h).symm
  have hnotRet : nnnField w ≠ 0x0EE#12 := fun h => hret (encodeNNN_of_fields hop h).symm
  simp [decodeWord, decodeZero, hop, hnotCls, hnotRet]

/-- Settles O8: SYS raises with its zero-extended nnn, which is the whole opcode since the first digit is 0. -/
theorem sysRaisesUnimplementedInstruction : Obligations.SysRaisesUnimplementedInstruction := by
  refine ⟨fun w hw hcls hret => ⟨decodeWord_sys hw hcls hret, fun s => ?raises⟩,
    fun nnn s => ⟨addr16 nnn, addr16_toNat nnn, exec_sys s nnn⟩⟩
  case raises =>
    have hopcode : addr16 (nnnField w) = w :=
      (encodeNNN_zero _).symm.trans (encodeNNN_of_fields (opField_of_mask hw) rfl)
    rw [exec_sys, hopcode]

/-! ## 00EE -/

/-- Settles O9: the pop reads the entry below SP, and the return goes on two bytes past it. -/
theorem returnGoesOnAfterTheCall : Obligations.ReturnGoesOnAfterTheCall := by
  refine ⟨encoded_ret, fun s => ⟨exec_ret_empty s, fun k hk => ?pops⟩⟩
  case pops =>
    have hret := exec_ret_succ s hk
    exact ⟨_, hret, rfl, BitVec.toNat_add (s.stackAt k) 2#16, (exec_next hret).onlyChanges⟩

/-! ## Bnnn -/

theorem encoded_jpV0 : Encoded 0xF000#16 0xB000#16 fun w => .jpV0 (nnnField w) := by
  intro w hw
  have hop : opField w = 0xB#4 := opField_of_mask hw
  simp [decodeWord, hop]

/-- Settles O12: the target is the unbounded sum, at most 0xFFF + 0xFF. -/
theorem jumpV0AddsV0 : Obligations.JumpV0AddsV0 := by
  refine ⟨encoded_jpV0, fun nnn s => ⟨_, exec_jpV0 s nnn, ?target, ?bound, onlyChanges_setPc s _⟩⟩ <;>
    rw [State.setPc_pc, jumpV0_target_toNat]
  case bound =>
    have hnnn := nnn.isLt
    have hv0 := (s.readV 0).isLt
    omega

/-! ## 2nnn, then 00EE -/

/-- Settles O13: the return pops the entry the call pushed, PC of the call, from the slot SP the call found. -/
theorem returnUndoesCall : Obligations.ReturnUndoesCall := by
  intro nnn s hsp
  obtain ⟨k, hk⟩ : ∃ k : Reg, s.sp.val = k.val := ⟨⟨s.sp.val, hsp⟩, rfl⟩
  refine ⟨s.called k nnn, exec_call_slot nnn hk, fun t' hsp' hstack => ?_⟩
  have hsp' : t'.sp.val = k.val + 1 := congrArg Fin.val hsp'
  have hentry : t'.stackAt k = s.pc := (hstack k (Nat.lt_succ_self k.val)).trans (s.called_stackAt k nnn)
  refine ⟨_, exec_ret_succ t' hsp', Fin.ext hk.symm, ?pc⟩
  case pc => exact hentry ▸ BitVec.toNat_add (t'.stackAt k) 2#16

end Sys2Proof.Machine
end

section
/-! PROOFS. The five arithmetic instructions that write VF first and their result second, and Cxnn (42_alu.md R106 to
R111). -/

namespace Sys2Proof.Machine

/-! ## Values of flags and results -/

section values
variable (a b : Byte)

theorem flagByte_toNat (c : Bool) : (flagByte c).toNat = if c then 1 else 0 := by
  cases c <;> rfl

theorem carryFlag_toNat : (carryFlag a b).toNat = if a.toNat + b.toNat > 255 then 1 else 0 := by
  rw [carryFlag, flagByte_toNat]
  simp only [decide_eq_true_eq]

theorem greaterFlag_toNat : (greaterFlag a b).toNat = if a.toNat > b.toNat then 1 else 0 := by
  rw [greaterFlag, flagByte_toNat]
  simp only [decide_eq_true_eq]

theorem lowBitFlag_toNat : (lowBitFlag b).toNat = b.toNat % 2 := by
  rw [lowBitFlag, flagByte_toNat, BitVec.getLsbD, Nat.testBit_zero]
  simp only [decide_eq_true_eq]
  split <;> omega

theorem highBitFlag_toNat : (highBitFlag b).toNat = b.toNat / 128 := by
  have hb := b.isLt
  rw [highBitFlag, flagByte_toNat, BitVec.getLsbD, Nat.testBit_eq_decide_div_mod_eq]
  simp only [decide_eq_true_eq]
  split <;> omega

theorem byte_add_toNat : (a + b).toNat = (a.toNat + b.toNat) % 256 := BitVec.toNat_add a b

theorem byte_sub_toNat : (a - b).toNat = (a.toNat + 256 - b.toNat) % 256 := by
  have hb := b.isLt
  rw [BitVec.toNat_sub]
  omega

theorem byte_shiftRight_toNat : (b >>> 1).toNat = b.toNat / 2 := by
  rw [BitVec.toNat_ushiftRight, Nat.shiftRight_eq_div_pow, pow_one]

theorem byte_shiftLeft_toNat : (b <<< 1).toNat = 2 * b.toNat % 256 := by
  rw [BitVec.toNat_shiftLeft, Nat.shiftLeft_eq, pow_one, Nat.mul_comm]

end values

/-! ## The flag, then the result -/

section flagThenResult
variable {i : Instr} {s : State} {x y : Reg} {f r : Byte}

theorem readV_flagged_ne (h : y ≠ regF) : (s.writeV 15 f).readV y = s.readV y := s.readV_writeV_ne f h

theorem readV_flagged_same : (s.writeV 15 f).readV regF = f := s.readV_writeV_same 15 f

/-- What 8xy4, 8xy5 and 8xy7 leave: the result in V[x], and the flag in VF unless the result has overwritten it. -/
theorem flagThenV_leaves (h : exec i s = done ((s.writeV 15 f).writeV x r)) :
    ∃ t, exec i s = .next t ∧ t.pc.toNat = (s.pc.toNat + 2) % 65536 ∧
      OnlyChanges (fun p => p = .pc ∨ p = .v x ∨ p = .v regF) s t ∧
      (x ≠ regF → t.readV regF = f) ∧ t.readV x = r := by
  refine ⟨_, h.trans (done_next _), nextPc_toNat (s := s) rfl, (onlyChanges_flagThenV s x f r).nextPc, fun hx => ?flag,
    ?result⟩ <;> rw [State.setPc_readV]
  case flag => exact (State.readV_writeV_ne _ r hx.symm).trans readV_flagged_same
  case result => exact State.readV_writeV_same _ x r

/-- What 8xy6 and 8xyE leave: the result in V[y] and V[x], and the flag in VF unless one of the two is VF. -/
theorem flagThenVs_leaves (h : exec i s = done (((s.writeV 15 f).writeV y r).writeV x r)) :
    ∃ t, exec i s = .next t ∧ t.pc.toNat = (s.pc.toNat + 2) % 65536 ∧
      OnlyChanges (fun p => p = .pc ∨ p = .v x ∨ p = .v y ∨ p = .v regF) s t ∧
      (x ≠ regF → y ≠ regF → t.readV regF = f) ∧ t.readV x = r ∧ t.readV y = r := by
  refine ⟨_, h.trans (done_next _), nextPc_toNat (s := s) rfl, (onlyChanges_flagThenVs s x y f r).nextPc,
    fun hx hy => ?flag, ?resultX, ?resultY⟩ <;> rw [State.setPc_readV]
  case flag =>
    rw [State.readV_writeV_ne _ r hx.symm, State.readV_writeV_ne _ r hy.symm, readV_flagged_same]
  case resultX => exact State.readV_writeV_same _ x r
  case resultY =>
    by_cases hyx : y = x
    · rw [hyx, State.readV_writeV_same]
    · rw [State.readV_writeV_ne _ r hyx, State.readV_writeV_same]

end flagThenResult

/-! ## 8xy4 -/

theorem encoded_addReg : Encoded 0xF00F#16 0x8004#16 fun w => .addReg (xField w) (yField w) :=
  encoded_arith (n := 0x4#4) fun w hn => by simp [decodeArith, hn]

/-- Settles O17: an operand in VF is read after the carry has replaced it. -/
theorem addSetsCarry : Obligations.AddSetsCarry := by
  refine ⟨encoded_addReg, ?_⟩
  rintro x y s a b f rfl rfl hf
  obtain ⟨c, hc⟩ : ∃ c, carryFlag (s.readV x) (s.readV y) = c := ⟨_, rfl⟩
  have hcf : c.toNat = f := by rw [← hc, carryFlag_toNat, hf]
  obtain ⟨t, ht, hpc, frame, hflag, hres⟩ := flagThenV_leaves (exec_addReg s x y c hc)
  refine ⟨t, ht, hpc, frame, fun hx => (congrArg _ (hflag hx)).trans hcf, fun hx hy => ?plain, fun hx hy => ?yFlag,
    fun hx hy => ?xFlag, fun hx hy => ?bothFlag⟩ <;> rw [hres, byte_add_toNat]
  case plain => rw [readV_flagged_ne hx, readV_flagged_ne hy]
  case yFlag => rw [readV_flagged_ne hx, hy, readV_flagged_same, hcf]
  case xFlag => rw [readV_flagged_ne hy, hx, readV_flagged_same, hcf]
  case bothFlag =>
    have hle : f ≤ 1 := by rw [hf]; split <;> decide
    rw [hx, hy, readV_flagged_same, hcf]
    omega

/-! ## 8xy5 and 8xy7 -/

/-- A difference of two registers once the flag `c` stands in VF: the minuend V[p], the subtrahend V[q]. -/
theorem flagged_sub_toNat (s : State) (p q : Reg) (c : Byte) :
    (p ≠ regF → q ≠ regF → ((s.writeV 15 c).readV p - (s.writeV 15 c).readV q).toNat =
      ((s.readV p).toNat + 256 - (s.readV q).toNat) % 256) ∧
    (p ≠ regF → q = regF → ((s.writeV 15 c).readV p - (s.writeV 15 c).readV q).toNat =
      ((s.readV p).toNat + 256 - c.toNat) % 256) ∧
    (p = regF → q ≠ regF → ((s.writeV 15 c).readV p - (s.writeV 15 c).readV q).toNat =
      (c.toNat + 256 - (s.readV q).toNat) % 256) := by
  rw [byte_sub_toNat]
  refine ⟨fun hp hq => ?plain, fun hp hq => ?subtrahend, fun hp hq => ?minuend⟩
  case plain => rw [readV_flagged_ne hp, readV_flagged_ne hq]
  case subtrahend => rw [readV_flagged_ne hp, hq, readV_flagged_same]
  case minuend => rw [readV_flagged_ne hq, hp, readV_flagged_same]

/-- With one register for both operands nothing is greater, so flag and difference are 0, whichever VF holds. -/
theorem flagged_sub_self {s t : State} {x : Reg} {c : Byte} (hc : greaterFlag (s.readV x) (s.readV x) = c)
    (hflag : x ≠ regF → t.readV regF = c)
    (hres : t.readV x = (s.writeV 15 c).readV x - (s.writeV 15 c).readV x) :
    (t.readV x).toNat = 0 ∧ (t.readV regF).toNat = 0 := by
  rw [BitVec.sub_self] at hres
  have hzero : c.toNat = 0 := by rw [← hc, greaterFlag_toNat, if_neg (Nat.lt_irrefl _)]
  refine ⟨congrArg _ hres, ?_⟩
  by_cases hx : x = regF
  · exact congrArg _ (hx ▸ hres)
  · rw [hflag hx, hzero]

theorem encoded_sub : Encoded 0xF00F#16 0x8005#16 fun w => .sub (xField w) (yField w) :=
  encoded_arith (n := 0x5#4) fun w hn => by simp [decodeArith, hn]

/-- Settles O18: minuend V[x], subtrahend V[y]. -/
theorem subtractSetsGreater : Obligations.SubtractSetsGreater := by
  refine ⟨encoded_sub, ?_⟩
  rintro x y s a b f rfl rfl hf
  obtain ⟨c, hc⟩ : ∃ c, greaterFlag (s.readV x) (s.readV y) = c := ⟨_, rfl⟩
  have hcf : c.toNat = f := by rw [← hc, greaterFlag_toNat, hf]
  obtain ⟨t, ht, hpc, frame, hflag, hres⟩ := flagThenV_leaves (exec_sub s x y c hc)
  obtain ⟨plain, yFlag, xFlag⟩ := flagged_sub_toNat s x y c
  rw [← hres, hcf] at yFlag xFlag
  rw [← hres] at plain
  refine ⟨t, ht, hpc, frame, fun hx => (congrArg _ (hflag hx)).trans hcf, plain, yFlag, xFlag, ?same⟩
  case same => rintro rfl; exact flagged_sub_self hc hflag hres

theorem encoded_subn : Encoded 0xF00F#16 0x8007#16 fun w => .subn (xField w) (yField w) :=
  encoded_arith (n := 0x7#4) fun w hn => by simp [decodeArith, hn]

/-- Settles O19: minuend V[y], subtrahend V[x]. -/
theorem reverseSubtractSetsGreater : Obligations.ReverseSubtractSetsGreater := by
  refine ⟨encoded_subn, ?_⟩
  rintro x y s a b f rfl rfl hf
  obtain ⟨c, hc⟩ : ∃ c, greaterFlag (s.readV y) (s.readV x) = c := ⟨_, rfl⟩
  have hcf : c.toNat = f := by rw [← hc, greaterFlag_toNat, hf]
  obtain ⟨t, ht, hpc, frame, hflag, hres⟩ := flagThenV_leaves (exec_subn s x y c hc)
  obtain ⟨plain, xFlag, yFlag⟩ := flagged_sub_toNat s y x c
  rw [← hres, hcf] at yFlag xFlag
  rw [← hres] at plain
  refine ⟨t, ht, hpc, frame, fun hx => (congrArg _ (hflag hx)).trans hcf, fun hx hy => plain hy hx,
    fun hx hy => yFlag hy hx, fun hx hy => xFlag hy hx, ?same⟩
  case same => rintro rfl; exact flagged_sub_self hc hflag hres

/-! ## 8xy6 and 8xyE -/

theorem encoded_shr : Encoded 0xF00F#16 0x8006#16 fun w => .shr (xField w) (yField w) :=
  encoded_arith (n := 0x6#4) fun w hn => by simp [decodeArith, hn]

/-- Settles O20: the result goes to V[y] and V[x] alike, and with y = 0xF it is the shifted flag, 0 or 1 shifted to
0. -/
theorem shiftRightShiftsVy : Obligations.ShiftRightShiftsVy := by
  refine ⟨encoded_shr, ?_⟩
  rintro x y s b rfl
  obtain ⟨c, hc⟩ : ∃ c, lowBitFlag (s.readV y) = c := ⟨_, rfl⟩
  have hcf : c.toNat = (s.readV y).toNat % 2 := by rw [← hc, lowBitFlag_toNat]
  obtain ⟨t, ht, hpc, frame, hflag, hresX, hresY⟩ := flagThenVs_leaves (exec_shr s x y c hc)
  refine ⟨t, ht, hpc, frame, fun hx hy => ?plain, fun hx hy => ?xFlag, fun hy => ?yFlag⟩
  case plain =>
    rw [hflag hx hy, hresX, hresY, byte_shiftRight_toNat, readV_flagged_ne hy]
    exact ⟨rfl, rfl, hcf⟩
  case xFlag =>
    rw [← hx, hresX, hresY, byte_shiftRight_toNat, readV_flagged_ne hy]
    exact ⟨rfl, rfl⟩
  case yFlag =>
    have hzero : (c >>> 1).toNat = 0 := by rw [byte_shiftRight_toNat]; omega
    rw [← hy, hresX, hresY, hy, readV_flagged_same]
    exact ⟨hzero, hzero⟩

theorem encoded_shl : Encoded 0xF00F#16 0x800E#16 fun w => .shl (xField w) (yField w) :=
  encoded_arith (n := 0xE#4) fun w hn => by simp [decodeArith, hn]

/-- Settles O21: as 8xy6 with the other shift, and with y = 0xF the flag 0 or 1 is shifted to 0 or 2. -/
theorem shiftLeftShiftsVy : Obligations.ShiftLeftShiftsVy := by
  refine ⟨encoded_shl, ?_⟩
  rintro x y s b rfl
  obtain ⟨c, hc⟩ : ∃ c, highBitFlag (s.readV y) = c := ⟨_, rfl⟩
  have hcf : c.toNat = (s.readV y).toNat / 128 := by rw [← hc, highBitFlag_toNat]
  obtain ⟨t, ht, hpc, frame, hflag, hresX, hresY⟩ := flagThenVs_leaves (exec_shl s x y c hc)
  refine ⟨t, ht, hpc, frame, fun hx hy => ?plain, fun hx hy => ?xFlag, fun hy => ?yFlag⟩
  case plain =>
    rw [hflag hx hy, hresX, hresY, byte_shiftLeft_toNat, readV_flagged_ne hy]
    exact ⟨rfl, rfl, hcf⟩
  case xFlag =>
    rw [← hx, hresX, hresY, byte_shiftLeft_toNat, readV_flagged_ne hy]
    exact ⟨rfl, rfl⟩
  case yFlag =>
    have hb := (s.readV y).isLt
    have htwice : (c <<< 1).toNat = 2 * ((s.readV y).toNat / 128) := by rw [byte_shiftLeft_toNat, hcf]; omega
    rw [← hy, hresX, hresY, hy, readV_flagged_same, ← hy]
    exact ⟨htwice, htwice⟩

/-! ## Cxnn -/

theorem encoded_rnd : Encoded 0xF000#16 0xC000#16 fun w => .rnd (xField w) (nnField w) := by
  intro w hw
  have hop : opField w = 0xC#4 := opField_of_mask hw
  simp [decodeWord, hop]

/-- Settles O22: Cxnn is one register write of the masked side input, which the Step has just supplied. -/
theorem randomIsMaskedSideInput : Obligations.RandomIsMaskedSideInput := by
  refine ⟨encoded_rnd, fun x nn s => ⟨_, done_writeV s x _, fun b _ => ?bits, ?bound, s.wroteV_pc x _,
    onlyChanges_wroteV s x _⟩, fun s w rnd hf hw => ?fetched⟩
  case bits => rw [State.wroteV_readV, BitVec.getLsbD_and]
  case bound =>
    rw [State.wroteV_readV, BitVec.toNat_and]
    exact Nat.and_le_right
  case fetched =>
    exact ⟨_, (stepWith_fetches rnd hf (encoded_rnd w hw)).trans (done_writeV _ _ _), State.wroteV_readV _ _ _⟩

end Sys2Proof.Machine
end

section
/-! PROOFS. Fx1E, Fx29 and Fx33 (43_index_memory.md R121 to R123), and what a byte stored by Fx55 reads as later
(20_memory.md section 7). -/

namespace Sys2Proof.Machine

/-! ## Fx1E and Fx29 -/

theorem encoded_addI : Encoded 0xF0FF#16 0xF01E#16 fun w => .addI (xField w) :=
  encoded_misc (nn := 0x1E#8) fun w hnn => by simp [decodeMisc, hnn]

/-- Settles O24: Fx1E is one write of I, of a sum at I's width. -/
theorem addToIndexWrapsAt16Bits : Obligations.AddToIndexWrapsAt16Bits := by
  refine ⟨encoded_addI, fun x s => ?_⟩
  rw [exec_addI, done_next]
  refine ⟨_, rfl, ?sum, nextPc_toNat (s := s) rfl, (onlyChanges_setI s _).nextPc⟩
  case sum => rw [State.setPc_i, State.setI_i, BitVec.toNat_add, byte16_toNat]

theorem lowNibble_val (b : Byte) : (lowNibble b).val = b.toNat % 16 := by
  simp [lowNibble]

theorem fontAddr_toNat (d : Reg) : (fontAddr d).toNat = 5 * d.val := by
  have hd := d.isLt
  simp [fontAddr]
  omega

theorem encoded_ldF : Encoded 0xF0FF#16 0xF029#16 fun w => .ldF (xField w) :=
  encoded_misc (nn := 0x29#8) fun w hnn => by simp [decodeMisc, hnn]

/-- Settles O25: Fx29 is one write of I, and sprites are five bytes from address 0 on. -/
theorem fontAddressOfLowNibble : Obligations.FontAddressOfLowNibble := by
  refine ⟨encoded_ldF, fun x s => ?_⟩
  rw [exec_ldF, done_next]
  refine ⟨_, rfl, ?address, nextPc_toNat (s := s) rfl, (onlyChanges_setI s _).nextPc⟩
  case address => rw [State.setPc_i, State.setI_i, fontAddr_toNat, lowNibble_val]

/-! ## Fx33 -/

/-- The k-th byte of a range just stored. -/
theorem State.byteAt_stored {s : State} (hwf : Memory.wf s.mem = true) {a k : Nat} {bytes : List Byte}
    (hfit : a + bytes.length ≤ 4096) (hk : k < bytes.length) :
    (s.setMem (Memory.writeRange s.mem a bytes)).byteAt (a + k) = bytes.getD k 0#8 := by
  rw [State.byteAt_writeRange hwf a _ bytes hfit, if_pos (by omega), Nat.add_sub_cancel_left]

/-- A digit below 256 is the byte of its value. -/
theorem digit_toNat {d : Nat} (hd : d < 256) : (BitVec.ofNat 8 d).toNat = d := Nat.mod_eq_of_lt hd

theorem encoded_ldB : Encoded 0xF0FF#16 0xF033#16 fun w => .ldB (xField w) :=
  encoded_misc (nn := 0x33#8) fun w hnn => by simp [decodeMisc, hnn]

/-- Settles O26: Fx33 is one range store of the three digits, checked as a whole before the first write. -/
theorem decimalStoreWritesThreeDigits : Obligations.DecimalStoreWritesThreeDigits := by
  refine ⟨encoded_ldB, ?_⟩
  rintro x s v hwf rfl
  refine ⟨fun h => (exec_ldB s x).trans (if_neg (by omega)), fun h => ?stores⟩
  case stores =>
    have hv := (s.readV x).isLt
    have hfit : s.i.toNat + (decimalDigits (s.readV x)).length ≤ 4096 := Nat.succ_le_succ h
    have stored : ∀ k < 3, _ := fun k hk => State.byteAt_stored hwf hfit (k := k) hk
    have exec_eq := ((exec_ldB s x).trans (if_pos hfit)).trans (done_next _)
    refine ⟨_, exec_eq, ?hundreds, ?tens, ?units, nextPc_toNat (s := s) rfl, (onlyChanges_writeRange hwf hfit).nextPc⟩
    case hundreds => exact (congrArg _ (stored 0 (by decide))).trans (digit_toNat (by omega))
    case tens => exact (congrArg _ (stored 1 (by decide))).trans (digit_toNat (by omega))
    case units => exact (congrArg _ (stored 2 (by decide))).trans (digit_toNat (by omega))

/-! ## Bytes stored by Fx55, read by Fx65 and by the fetch -/

/-- Settles O29: Fx65 at the same I reads each byte where Fx55 put it. -/
theorem loadAfterStoreRecoversRegisters : Obligations.LoadAfterStoreRecoversRegisters := by
  intro x s hwf hfit
  refine ⟨_, (exec_ldMemVx_inBounds hfit).trans (done_next _), rfl, fun t' hmem hi => ?_⟩
  have hi : t'.i = s.i := hi
  have hfit' : t'.i.toNat + x.val ≤ 4095 := by rwa [hi]
  refine ⟨_, (exec_ldVxMem_inBounds hfit').trans (done_next _), hi, fun k hk => ?_⟩
  calc (t'.loadedRegs x).readV k = t'.byteAt (t'.indexAddr + k.val) := t'.loadedRegs_readV hk
    _ = (s.storedRegs x).byteAt (s.indexAddr + k.val) := by
      rw [State.byteAt, State.indexAddr, hmem, hi]
      rfl
    _ = s.readV k := State.storedRegs_byteAt hwf hfit hk

/-- Settles O30: the fetch composes the two bytes at PC, which are the registers stored there. -/
theorem storedBytesAreFetched : Obligations.StoredBytesAreFetched := by
  intro x j k s hwf hfit hjk hkx
  refine ⟨_, (exec_ldMemVx_inBounds hfit).trans (done_next _), fun u hmem hwait hpc => ?_⟩
  have stored : ∀ r : Reg, r.val ≤ x.val → u.byteAt (s.i.toNat + r.val) = s.readV r := by
    intro r hr
    rw [State.byteAt, hmem]
    exact State.storedRegs_byteAt hwf hfit hr
  have hhi : u.byteAt u.pc.toNat = s.readV j := by rw [hpc, stored j (by omega)]
  have hlo : u.byteAt (u.pc.toNat + 1) = s.readV k := by rw [hpc, Nat.add_assoc, ← hjk, stored k hkx]
  refine ⟨composeWord (s.readV j) (s.readV k), ⟨hwait, by omega, ?fetched⟩, composeWord_toNat _ _⟩
  case fetched => rw [hhi, hlo, composeWord_toNat]

end Sys2Proof.Machine
end

section
/-! PROOFS. The display (44_display.md): 00E0, and Dxyn drawn once and twice (R130 to R132). -/

namespace Sys2Proof.Machine

/-! ## 00E0 -/

theorem encoded_cls : Encoded 0xFFFF#16 0x00E0#16 fun _ => .cls := encoded_literal (by decide)

/-- Settles O31: 00E0 is one write of the whole framebuffer. -/
theorem clearDarkensEveryPixel : Obligations.ClearDarkensEveryPixel :=
  ⟨encoded_cls, fun s => ⟨_, (exec_cls s).trans (done_next _), Framebuffer.getElem_clear, nextPc_toNat (s := s) rfl,
    (onlyChanges_setFb s _).nextPc⟩⟩

/-! ## Dxyn -/

/-- The state with the sprite drawn and VF told whether a lit pixel was erased (R131). -/
def State.drawn (s : State) (x y : Reg) (n : Nibble) : State :=
  (s.setFb (drawPixels s.fb (s.drawnPixels x y n)).1).writeV 15 (erasedFlag (drawPixels s.fb (s.drawnPixels x y n)).2)

section drawn
variable {s : State} {x y : Reg} {n : Nibble}

theorem exec_drw_outOfBounds (hn : 1 ≤ n.toNat) (h : 4095 < s.i.toNat + n.toNat - 1) :
    exec (.drw x y n) s = .fault .memoryOutOfBounds :=
  (exec_drw s x y n).trans (if_neg (by omega))

theorem exec_drw_inBounds (h : n.toNat = 0 ∨ s.i.toNat + n.toNat ≤ 4096) :
    exec (.drw x y n) s = done (s.drawn x y n) :=
  (exec_drw s x y n).trans (if_pos h)

theorem State.pixel_drawn (s : State) (x y : Reg) (n : Nibble) (row : Fin 32) (col : Fin 64) :
    (s.drawn x y n).pixel row col =
      if (row, col) ∈ s.drawnPixels x y n then !s.pixel row col else s.pixel row col :=
  s.drawn_pixel x y n row col

theorem State.flag_drawn (s : State) (x y : Reg) (n : Nibble) :
    (s.drawn x y n).readV regF = erasedFlag (drawPixels s.fb (s.drawnPixels x y n)).2 :=
  State.readV_writeV_same _ 15 _

theorem State.flag_drawn_erased (h : ∃ row col, (row, col) ∈ s.drawnPixels x y n ∧ s.pixel row col = true) :
    (s.drawn x y n).readV regF = 1#8 := by
  rw [State.flag_drawn, (s.drawn_erased x y n).mpr h]
  rfl

theorem State.flag_drawn_kept (h : ¬ ∃ row col, (row, col) ∈ s.drawnPixels x y n ∧ s.pixel row col = true) :
    (s.drawn x y n).readV regF = 0#8 := by
  rw [State.flag_drawn, Bool.eq_false_iff.mpr (mt (s.drawn_erased x y n).mp h)]
  rfl

end drawn

theorem encoded_drw : Encoded 0xF000#16 0xD000#16 fun w => .drw (xField w) (yField w) (nField w) := by
  intro w hw
  have hop : opField w = 0xD#4 := opField_of_mask hw
  simp [decodeWord, hop]

/-- Settles O32: the pixels hit are the drawn ones, each drawn once. -/
theorem drawFlipsTheSpritesPixels : Obligations.DrawFlipsTheSpritesPixels := by
  refine ⟨encoded_drw, fun x y n s hit hhit => ⟨exec_drw_outOfBounds, fun h => ?draws⟩⟩
  case draws =>
    have hdrawn : ∀ row col, hit row col ↔ (row, col) ∈ s.drawnPixels x y n :=
      fun row col => (hhit row col).trans (s.mem_drawnPixels x y n row col).symm
    have herased : (∃ row col, hit row col ∧ s.pixel row col = true) ↔
        ∃ row col, (row, col) ∈ s.drawnPixels x y n ∧ s.pixel row col = true :=
      exists_congr fun row => exists_congr fun col => and_congr_left fun _ => hdrawn row col
    refine ⟨_, (exec_drw_inBounds (by omega)).trans (done_next _), fun row col hpix => ?flipped,
      fun row col hpix => ?kept, fun hlit => State.flag_drawn_erased (herased.mp hlit),
      fun hlit => State.flag_drawn_kept (mt herased.mpr hlit), nextPc_toNat (s := s) rfl,
      (onlyChanges_drawn s _ _).nextPc⟩
    case flipped => exact (s.pixel_drawn x y n row col).trans (if_pos ((hdrawn row col).mp hpix))
    case kept => exact (s.pixel_drawn x y n row col).trans (if_neg (mt (hdrawn row col).mpr hpix))

/-- A first draw leaves the place and the sprite of a second one, unless x or y is VF. -/
theorem State.drawnPixels_drawn (s : State) {x y : Reg} (n : Nibble) (hx : x ≠ regF) (hy : y ≠ regF) :
    (s.drawn x y n).drawnPixels x y n = s.drawnPixels x y n := by
  have hvx : (s.drawn x y n).readV x = s.readV x := State.readV_writeV_ne _ _ hx
  have hvy : (s.drawn x y n).readV y = s.readV y := State.readV_writeV_ne _ _ hy
  rw [State.drawnPixels, hvx, hvy]
  rfl

/-- Settles O33: both draws flip the same pixels, and one the first lit is one the second erases. -/
theorem drawTwiceRestoresTheScreen : Obligations.DrawTwiceRestoresTheScreen := by
  intro x y n s hx hy hfit
  obtain ⟨t, ht, hexec⟩ : ∃ t, t = (s.drawn x y n).advance ∧ exec (.drw x y n) s = .next t :=
    ⟨_, rfl, (exec_drw_inBounds hfit).trans (done_next _)⟩
  have hfit' : n.toNat = 0 ∨ t.i.toNat + n.toNat ≤ 4096 := by rwa [ht]
  have hpixels : t.drawnPixels x y n = s.drawnPixels x y n := by rw [ht]; exact s.drawnPixels_drawn n hx hy
  have hfirst : ∀ row col, t.pixel row col =
      if (row, col) ∈ s.drawnPixels x y n then !s.pixel row col else s.pixel row col := by
    rw [ht]
    exact s.pixel_drawn x y n
  refine ⟨t, _, hexec, (exec_drw_inBounds hfit').trans (done_next _), fun row col => ?restored, ?flag⟩
  case restored =>
    refine (t.pixel_drawn x y n row col).trans ?_
    rw [hpixels, hfirst]
    split <;> simp
  case flag =>
    rintro ⟨row, col, hdark, hlit⟩
    have hdrawn : (row, col) ∈ s.drawnPixels x y n := by
      by_contra hnot
      rw [hfirst, if_neg hnot, hdark] at hlit
      cases hlit
    exact State.flag_drawn_erased ⟨row, col, hpixels ▸ hdrawn, hlit⟩

end Sys2Proof.Machine
end

section
/-! PROOFS. Keys (45_keys_timers.md): the key skips, Fx0A, and the waiting Step (R140 to R143). -/

namespace Sys2Proof.Machine

/-! ## Ex9E and ExA1 -/

/-- A word ExNN is read by `decodeKeys`, which looks at the byte nn alone. -/
theorem encoded_keys {nn : Byte} {i : Word → Instr}
    (h : ∀ w, nnField w = nn → decodeKeys w = some (i w)) : Encoded 0xF0FF#16 (0xE0#8 ++ nn) i := by
  intro w hw
  obtain ⟨hop, hnn⟩ := fields_of_mask_X hw
  have hop : opField w = 0xE#4 := hop.trans (extract_append_high (s := 4) 0xE0#8 nn 4)
  have hnn : nnField w = nn := hnn.trans ((extract_append_low 0xE0#8 nn (by decide)).trans (extract_all nn))
  simpa [decodeWord, hop] using h w hnn

theorem encoded_skp : Encoded 0xF0FF#16 0xE09E#16 fun w => .skp (xField w) :=
  encoded_keys (nn := 0x9E#8) fun w hnn => by simp [decodeKeys, hnn]

theorem encoded_sknp : Encoded 0xF0FF#16 0xE0A1#16 fun w => .sknp (xField w) :=
  encoded_keys (nn := 0xA1#8) fun w hnn => by simp [decodeKeys, hnn]

/-- ExA1's polarity: two where the condition holds. -/
theorem skipIf_not_moves (c : Bool) (s : State) : MovesPcBy (if c = true then 2 else 4) s (skipIf (!c) s) := by
  cases c <;> exact skipIf_moves _ s

/-- Settles O34: both are `skipIf` on the key of the low nibble. -/
theorem keySkipsTestTheLowNibble : Obligations.KeySkipsTestTheLowNibble := by
  refine ⟨⟨encoded_skp, encoded_sknp⟩, fun x k s hk => ?_⟩
  obtain rfl : lowNibble (s.readV x) = k := Fin.ext ((lowNibble_val _).trans hk.symm)
  rw [exec_skp, exec_sknp]
  exact ⟨skipIf_moves _ s, skipIf_not_moves _ s⟩

/-! ## Fx0A -/

theorem encoded_ldVxK : Encoded 0xF0FF#16 0xF00A#16 fun w => .ldVxK (xField w) :=
  encoded_misc (nn := 0x0A#8) fun w hnn => by simp [decodeMisc, hnn]

/-- Settles O35: Fx0A writes the latch and WAIT, and no register. -/
theorem waitForKeySuspends : Obligations.WaitForKeySuspends :=
  ⟨encoded_ldVxK, fun x s => ⟨_, exec_ldVxK s x, rfl, rfl, fun _ => rfl, onlyChanges_suspend s x⟩⟩

/-! ## The waiting Step -/

theorem onlyChanges_setWait (s : State) (b : Bool) : OnlyChanges (fun p => p = .wait) s (s.setWait b) := by
  intro p hp
  cases p
  case wait => exact absurd rfl hp
  all_goals rfl

theorem onlyChanges_snapshotKeys (s : State) : OnlyChanges (fun p => ∃ k, p = .kprev k) s s.snapshotKeys := by
  intro p hp
  cases p
  case kprev k => exact absurd ⟨k, rfl⟩ hp
  all_goals rfl

theorem keyByte_toNat (k : Reg) : (keyByte k).toNat = k.val := by
  have hk := k.isLt
  exact Nat.mod_eq_of_lt (by omega)

section waiting
variable {s : State} {k : Reg}

/-- The search finds the new key below which there is none. -/
theorem newKey_of_lowest (hdown : s.key[k] = true) (hup : s.kprev[k] = false)
    (hlow : ∀ j < k, s.key[j] = true → s.kprev[j] = true) : s.newKey = some k := by
  cases h : s.newKey with
  | none => exact absurd ⟨hdown, hup⟩ (State.newKey_none.mp h k)
  | some k' =>
    obtain ⟨hdown', hup', hlow'⟩ := State.newKey_some h
    obtain hlt | heq | hgt := lt_trichotomy k k'
    · exact absurd ⟨hdown, hup⟩ (hlow' k hlt)
    · rw [heq]
    · rw [hlow k' hgt hdown'] at hup'
      cases hup'

theorem resumeWait_completes (h : s.newKey = some k) :
    resumeWait s = (s.writeV s.waitx (keyByte k)).advance.setWait false := by
  rw [resumeWait, h]

theorem resumeWait_looksAgain (h : s.newKey = none) : resumeWait s = s.snapshotKeys := by
  rw [resumeWait, h]

end waiting

theorem onlyChanges_completed (s : State) (k : Reg) :
    OnlyChanges (fun p => p = .pc ∨ p = .wait ∨ p = .v s.waitx) s
      ((s.writeV s.waitx (keyByte k)).advance.setWait false) :=
  ((onlyChanges_writeV s _ _).nextPc.mono fun _ => .imp_right .inr).trans
    ((onlyChanges_setWait _ false).mono fun _ hp => .inr (.inl hp))

/-- Settles O36: the lowest new key is the one the search finds, and without a new key the keys are looked at again. -/
theorem waitingStepCompletesOnNewKey : Obligations.WaitingStepCompletesOnNewKey := by
  intro s rnd hw
  rw [stepWith_waiting rnd hw]
  refine ⟨fun k hdown hup hlow => ?completes, fun hnone => ?looksAgain⟩
  case completes =>
    rw [resumeWait_completes (newKey_of_lowest hdown hup hlow)]
    refine ⟨_, rfl, ?value, rfl, BitVec.toNat_add s.pc 2#16, onlyChanges_completed s k⟩
    case value => exact (congrArg _ (s.readV_writeV_same s.waitx (keyByte k))).trans (keyByte_toNat k)
  case looksAgain =>
    have hnew : s.newKey = none := State.newKey_none.mpr fun j ⟨hdown, hup⟩ => by
      rw [hnone j hdown] at hup
      cases hup
    rw [resumeWait_looksAgain hnew]
    exact ⟨_, rfl, fun _ => rfl, onlyChanges_snapshotKeys s⟩

end Sys2Proof.Machine
end

section
/-! PROOFS. Which instruction raises and when (60_exceptions.md sections 1 and 2), and what a Step does not depend on:
an error on few parts, every instruction but Cxnn on the side input, an unsuspended Step on the key latch. -/

namespace Sys2Proof.Machine

/-! ## The errors -/

theorem exec_ldB_outOfBounds {s : State} {x : Reg} (h : 4095 < s.i.toNat + 2) :
    exec (.ldB x) s = .fault .memoryOutOfBounds :=
  (exec_ldB s x).trans (if_neg (by omega))

/-- Settles O39: the seven instructions with a check are split on it; every other one has a next state. -/
theorem errorsAriseOnlyWhereTheSpecSays : Obligations.ErrorsAriseOnlyWhereTheSpecSays := by
  intro i s
  cases i
  case sys nnn => exact .inr (.inl ⟨nnn, rfl, rfl⟩)
  case call nnn =>
    by_cases hsp : s.sp.val < 16
    · exact .inl ⟨_, exec_call_lt s nnn hsp⟩
    · have hfull : s.sp.val = 16 := by omega
      exact .inr (.inr (.inl ⟨nnn, rfl, hfull, exec_call_full s nnn hfull⟩))
  case ret =>
    cases hsp : s.sp.val with
    | zero => exact .inr (.inr (.inr (.inl ⟨rfl, rfl, exec_ret_empty s hsp⟩)))
    | succ k => exact .inl ⟨_, exec_ret_succ s hsp⟩
  case ldB x =>
    by_cases h : 4095 < s.i.toNat + 2
    · exact .inr (.inr (.inr (.inr ⟨exec_ldB_outOfBounds h, .inl ⟨x, rfl, h⟩⟩)))
    · exact .inl ⟨_, (exec_ldB s x).trans (if_pos (by omega))⟩
  case ldMemVx x =>
    by_cases h : 4095 < s.i.toNat + x.val
    · exact .inr (.inr (.inr (.inr ⟨exec_ldMemVx_outOfBounds h, .inr (.inl ⟨x, .inl rfl, h⟩)⟩)))
    · exact .inl ⟨_, exec_ldMemVx_inBounds (Nat.le_of_not_lt h)⟩
  case ldVxMem x =>
    by_cases h : 4095 < s.i.toNat + x.val
    · exact .inr (.inr (.inr (.inr ⟨exec_ldVxMem_outOfBounds h, .inr (.inl ⟨x, .inr rfl, h⟩)⟩)))
    · exact .inl ⟨_, exec_ldVxMem_inBounds (Nat.le_of_not_lt h)⟩
  case drw x y n =>
    by_cases h : n.toNat = 0 ∨ s.i.toNat + n.toNat ≤ 4096
    · exact .inl ⟨_, exec_drw_inBounds h⟩
    · have hn : 1 ≤ n.toNat := by omega
      have hout : 4095 < s.i.toNat + n.toNat - 1 := by omega
      exact .inr (.inr (.inr (.inr ⟨exec_drw_outOfBounds hn hout, .inr (.inr ⟨x, y, n, rfl, hn, hout⟩)⟩)))
  all_goals exact .inl ⟨_, rfl⟩

/-- Every condition of O39 is on SP or I. -/
theorem exec_fault_congr {i : Instr} {s s' : State} {f : Fault} (hsp : s'.sp = s.sp) (hi : s'.i = s.i)
    (h : exec i s = .fault f) : exec i s' = .fault f := by
  obtain ⟨t, ht⟩ | ⟨nnn, rfl, hf⟩ | ⟨nnn, rfl, hfull, hf⟩ | ⟨rfl, hempty, hf⟩ | ⟨hf, hout⟩ :=
    errorsAriseOnlyWhereTheSpecSays i s
  · cases ht.symm.trans h
  · exact h
  · cases hf.symm.trans h
    exact exec_call_full s' nnn (by rwa [hsp])
  · cases hf.symm.trans h
    exact exec_ret_empty s' (by rwa [hsp])
  · cases hf.symm.trans h
    rw [← hi] at hout
    obtain ⟨x, rfl, hx⟩ | ⟨x, rfl | rfl, hx⟩ | ⟨x, y, n, rfl, hn, hx⟩ := hout
    · exact exec_ldB_outOfBounds hx
    · exact exec_ldMemVx_outOfBounds hx
    · exact exec_ldVxMem_outOfBounds hx
    · exact exec_drw_outOfBounds hn hx

theorem fetches_congr {s s' : State} (hpc : s'.pc = s.pc) (hmem : s'.mem = s.mem) (hwait : s'.wait = s.wait)
    {w : Word} (h : Fetches s w) : Fetches s' w := by
  unfold Fetches State.byteAt
  rw [hpc, hmem, hwait]
  exact h

/-- Settles O40: the fetch looks at WAIT, PC and MEM, and the instruction's own check at SP or I. -/
theorem errorsDependOnFewParts : Obligations.ErrorsDependOnFewParts := by
  intro s s' rnd rnd' f hpc hmem hsp hi hwait h
  obtain ⟨-, hs⟩ | ⟨hw, hbound, hs⟩ | ⟨hf, hd, hs⟩ | ⟨i, hf, hd, hs⟩ := stepWith_cases s rnd <;> rw [hs] at h
  · cases h
  · rw [← h]
    exact stepWith_out_of_bounds rnd' (hwait.trans hw) (by rwa [hpc])
  · rw [← h]
    exact stepWith_no_instruction rnd' (fetches_congr hpc hmem hwait hf) hd
  · rw [stepWith_fetches rnd' (fetches_congr hpc hmem hwait hf) hd]
    exact exec_fault_congr (s := s.supplyRnd rnd) hsp hi h

/-! ## What instructions neither read nor write -/

/-- A change of the environment's side and of the key latch, the parts no instruction reads: but for the side input,
which Cxnn reads, and the latch, which Fx0A overwrites. -/
def State.mapAside (e : Env → Env) (wx : Reg → Reg) (kp : Vector Bool 16 → Vector Bool 16) (s : State) : State :=
  { s with env := e s.env, waitx := wx s.waitx, kprev := kp s.kprev }

/-- An outcome with its next state changed. -/
def mapNext (g : State → State) (r : Result) : Result :=
  match r with
  | .next t => .next (g t)
  | .fault f => .fault f
  | .refused r => .refused r

section aside
variable {e : Env → Env} {wx : Reg → Reg} {kp : Vector Bool 16 → Vector Bool 16} {i : Instr} {s : State}

theorem skipIf_mapAside (c : Bool) :
    skipIf c (s.mapAside e wx kp) = mapNext (State.mapAside e wx kp) (skipIf c s) := by
  cases c <;> rfl

/-- The change made before the instruction is the change made after it. -/
theorem exec_mapAside (hk : ∀ x, i ≠ .ldVxK x) (hr : ∀ x nn, i = .rnd x nn → (e s.env).rnd = s.env.rnd) :
    exec i (s.mapAside e wx kp) = mapNext (State.mapAside e wx kp) (exec i s) := by
  cases i
  case ldVxK x => exact absurd rfl (hk x)
  case rnd x nn =>
    rw [exec_rnd, exec_rnd, show (s.mapAside e wx kp).env.rnd = s.env.rnd from hr x nn rfl]
    rfl
  case seImm | sneImm | seReg | sneReg | skp | sknp => exact skipIf_mapAside _
  case ret =>
    cases hsp : s.sp.val with
    | zero => rw [exec_ret_empty s hsp, exec_ret_empty (s.mapAside e wx kp) hsp]; rfl
    | succ k => rw [exec_ret_succ s hsp, exec_ret_succ (s.mapAside e wx kp) hsp]; rfl
  case call nnn =>
    by_cases hsp : s.sp.val < 16
    · rw [exec_call_lt s nnn hsp, exec_call_lt (s.mapAside e wx kp) nnn hsp]; rfl
    · have hfull : s.sp.val = 16 := by omega
      rw [exec_call_full s nnn hfull, exec_call_full (s.mapAside e wx kp) nnn hfull]; rfl
  case ldB => rw [exec_ldB, exec_ldB, apply_ite (mapNext _)]; rfl
  case ldMemVx => rw [exec_ldMemVx, exec_ldMemVx, apply_ite (mapNext _)]; rfl
  case ldVxMem => rw [exec_ldVxMem, exec_ldVxMem, apply_ite (mapNext _)]; rfl
  case drw => rw [exec_drw, exec_drw, apply_ite (mapNext _)]; rfl
  all_goals rfl

end aside

/-! ## The side input -/

/-- Fx0A is the one instruction `exec_mapAside` leaves out that does not read the side input. -/
theorem exec_supplyRnd {i : Instr} (hi : ∀ x nn, i ≠ .rnd x nn) (s : State) (rnd : Byte) :
    exec i (s.supplyRnd rnd) = mapNext (fun t => t.supplyRnd rnd) (exec i s) := by
  by_cases hk : ∃ x, i = .ldVxK x
  · obtain ⟨x, rfl⟩ := hk
    rfl
  · exact exec_mapAside (e := fun env => { env with rnd := rnd }) (wx := id) (kp := id)
      (fun x hx => hk ⟨x, hx⟩) (fun x nn hx => absurd hx (hi x nn))

/-- Settles O44: the byte supplied before the instruction is the byte supplied after it. -/
theorem onlyRandomReadsTheSideInput : Obligations.OnlyRandomReadsTheSideInput := by
  refine fun i s rnd hi => ⟨fun t h => ?_, fun f h => ?_⟩ <;> rw [exec_supplyRnd hi, h] <;> rfl

/-! ## The key latch -/

/-- WAITX and KPREV replaced. -/
def State.setLatch (s : State) (x : Reg) (kp : Vector Bool 16) : State := { s with waitx := x, kprev := kp }

/-- An unsuspended Step from another latch does the same, Fx0A to the same state and every other instruction to one with
that other latch and no wait pending. -/
theorem stepWith_setLatch {s : State} (x : Reg) (kp : Vector Bool 16) (rnd : Byte) (hw : s.wait = false) :
    stepWith rnd (s.setLatch x kp) = stepWith rnd s ∨
      (stepWith rnd (s.setLatch x kp) = mapNext (fun t => t.setLatch x kp) (stepWith rnd s) ∧
        ∀ t, stepWith rnd s = .next t → t.wait = false) := by
  obtain ⟨hwait, -⟩ | ⟨-, hbound, hs⟩ | ⟨hf, hd, hs⟩ | ⟨i, hf, hd, hs⟩ := stepWith_cases s rnd
  · exact absurd hwait (by simp [hw])
  · exact .inl ((stepWith_out_of_bounds (s := s.setLatch x kp) rnd hw hbound).trans hs.symm)
  · exact .inl ((stepWith_no_instruction (s := s.setLatch x kp) rnd hf hd).trans hs.symm)
  · rw [hs, stepWith_fetches (s := s.setLatch x kp) rnd hf hd]
    by_cases hk : ∃ y, i = .ldVxK y
    · obtain ⟨y, rfl⟩ := hk
      exact .inl rfl
    · refine .inr ⟨?commutes, fun t ht => ?running⟩
      case commutes =>
        exact exec_mapAside (s := s.supplyRnd rnd) (e := id) (wx := fun _ => x) (kp := fun _ => kp)
          (fun y hy => hk ⟨y, hy⟩) (fun _ _ _ => rfl)
      case running =>
        have hsame : t.wait = s.wait := (exec_next ht).onlyChanges .wait fun h => hk (mayWrite_latch (.inl h))
        rw [hsame, hw]

/-- Settles O45: a Step that suspends has overwritten the latch, and any other carries it along. -/
theorem idleKeyLatchIsDead : Obligations.IdleKeyLatchIsDead := by
  intro s x kp rnd hw
  obtain hsame | ⟨hmap, hrunning⟩ := stepWith_setLatch x kp rnd hw
  · exact ⟨fun f h => hsame.trans h, fun t h => ⟨t, hsame.trans h, rfl, fun _ => rfl⟩⟩
  · refine ⟨fun f h => hmap.trans (by rw [h]; rfl), fun t h => ⟨t.setLatch x kp, hmap.trans (by rw [h]; rfl), rfl, ?_⟩⟩
    intro hwait
    rw [hrunning t h] at hwait
    cases hwait

end Sys2Proof.Machine
end

section
/-! PROOFS. The environment's operations (00_scope.md section 3, 70_reset_and_hazards.md section 1), and the jump to
itself (70_reset_and_hazards.md section 4). -/

namespace Sys2Proof.Machine

/-! ## TickTimers -/

/-- Settles O47: each tick takes one from each timer, with a floor at 0. -/
theorem timerReachesZeroAndStays : Obligations.TimerReachesZeroAndStays := by
  intro s n
  induction n generalizing s with
  | zero => exact ⟨rfl, rfl⟩
  | succ n ih =>
    obtain ⟨hdt, hst⟩ := ih (tickTimers s)
    rw [tickTimers_dt, tickDown_toNat, Nat.sub_sub, Nat.add_comm 1 n] at hdt
    rw [tickTimers_st, tickDown_toNat, Nat.sub_sub, Nat.add_comm 1 n] at hst
    exact ⟨hdt, hst⟩

/-! ## PowerOn, Init, Observe -/

theorem onlyChanges_setEnv (s : State) (e : Env) : OnlyChanges (fun p => p = .env) s (s.setEnv e) := by
  intro p hp
  cases p
  case env => exact absurd rfl hp
  all_goals rfl

theorem reset_readV (x : Reg) : State.reset.readV x = 0#8 := by simp [State.reset, State.readV]
theorem reset_stackAt (k : Reg) : State.reset.stackAt k = 0#16 := by simp [State.reset, State.stackAt]
theorem reset_key (k : Reg) : State.reset.key[k] = false := by simp [State.reset]
theorem reset_kprev (k : Reg) : State.reset.kprev[k] = false := by simp [State.reset]
theorem reset_pixel (row : Fin 32) (col : Fin 64) : State.reset.pixel row col = false := by
  simp [State.reset, State.pixel]

/-- Settles O49: PowerOn leaves `State.reset` but for the environment's side. -/
theorem powerOnZeroesAllButPc : Obligations.PowerOnZeroesAllButPc := fun s =>
  ⟨powerOn s, rfl, onlyChanges_setEnv _ _, rfl, Memory.read_nil, reset_readV, rfl, reset_stackAt, rfl, rfl, rfl,
    reset_key, reset_pixel, rfl, rfl, reset_kprev⟩

theorem onlyChanges_initCore (s : State) :
    OnlyChanges (fun p => p = .pc ∨ p = .i ∨ p = .sp ∨ p = .wait) s (initCore s) := by
  refine ((onlyChanges_setPc s _).mono ?pc).trans (((onlyChanges_setI _ _).mono ?i).trans
    (((onlyChanges_setSp _ 0).mono ?sp).trans ((onlyChanges_setWait _ false).mono ?wait)))
  case pc => exact fun _ h => .inl h
  case i => exact fun _ h => .inr (.inl h)
  case sp => exact fun _ h => .inr (.inr (.inl h))
  case wait => exact fun _ h => .inr (.inr (.inr h))

/-- Settles O50: Init is four register writes. -/
theorem initResetsFourRegisters : Obligations.InitResetsFourRegisters := fun s =>
  ⟨initCore s, rfl, initCore_pc s, initCore_i s, congrArg Fin.val (initCore_sp s), initCore_wait s,
    onlyChanges_initCore s⟩

/-- Settles O53: Observe reads three fields and compares ST with 0. -/
theorem observeShowsTheOutputs : Obligations.ObserveShowsTheOutputs := fun s =>
  ⟨observe s, rfl, fun _ _ => rfl, rfl, decide_eq_true_iff, rfl⟩

/-! ## Load and LoadFont -/

theorem perform_load_fits {bytes : List Byte} (s : State) (h : 0x200 + bytes.length ≤ 4096) :
    perform (.driver (.load bytes)) s = (loadProgram bytes s, .ok) :=
  driverMove_load_fits s ((loadFits_iff bytes).mpr h)

/-- Settles O51: Load is one range store, checked as a whole before the first write. -/
theorem loadWritesTheProgram : Obligations.LoadWritesTheProgram := by
  intro bytes s hwf
  refine ⟨fun h => driverMove_load_tooLarge s fun hfit => ?tooLarge,
    fun h => ⟨_, perform_load_fits s h, ?bytes, ?frame⟩⟩
  case tooLarge =>
    have := (loadFits_iff bytes).mp hfit
    omega
  case bytes => exact fun k hk => State.byteAt_stored hwf h hk
  case frame => exact onlyChanges_writeRange hwf h

theorem onlyChanges_loadFont {s : State} (hwf : Memory.wf s.mem = true) :
    OnlyChanges (fun p => ∃ a < 80, p = .mem a) s (loadFont s) := by
  intro p hp
  cases p
  case mem a =>
    have ha : ¬ a < 80 := fun ha => hp ⟨a, ha, rfl⟩
    exact (loadFont_byteAt hwf a).trans (if_neg ha)
  all_goals simp [Part.same]

/-- The font in memory, a slice of it at a time. -/
theorem loadFont_slice {s : State} (hwf : Memory.wf s.mem = true) {a n : Nat} (h : a + n ≤ 80) :
    (List.range n).map (fun k => ((loadFont s).byteAt (a + k)).toNat) =
      (List.range n).map (fun k => (fontTable.getD (a + k) 0#8).toNat) := by
  refine List.map_congr_left fun k hk => ?_
  have hk := List.mem_range.mp hk
  rw [loadFont_byteAt hwf, if_pos (by omega)]

/-- Settles O52: LoadFont stores `fontTable`, whose two halves are the bytes of R184. -/
theorem loadFontWritesTheTable : Obligations.LoadFontWritesTheTable := by
  intro s hwf
  refine ⟨loadFont s, rfl, ?low, ?high, onlyChanges_loadFont hwf⟩
  case low =>
    have hlow := loadFont_slice hwf (a := 0) (n := 40) (by decide)
    simp only [Nat.zero_add] at hlow
    rw [hlow]
    decide
  case high =>
    rw [loadFont_slice hwf (by decide)]
    decide

/-- The start state is the boot order's last state. -/
theorem boot_eq {program : List Byte} (h : 0x200 + program.length ≤ 4096) (s : State) :
    performAll [.driver .powerOn, .driver .loadFont, .driver (.load program), .driver .init] s =
      initCore (loadProgram program (loadFont (powerOn s))) := by
  have hload := perform_load_fits (loadFont (powerOn s)) h
  show initCore (perform (.driver (.load program)) (loadFont (powerOn s))).1 = _
  rw [hload]

/-- The bytes of memory at the start: Load's, below it LoadFont's, elsewhere PowerOn's. -/
theorem boot_byteAt {program : List Byte} (h : 0x200 + program.length ≤ 4096) (s : State) (a : Nat) :
    (initCore (loadProgram program (loadFont (powerOn s)))).byteAt a =
      if 0x200 ≤ a ∧ a < 0x200 + program.length then program.getD (a - 0x200) 0#8
      else if a < 80 then fontTable.getD a 0#8 else 0#8 := by
  have hwf : Memory.wf (powerOn s).mem = true := rfl
  rw [initCore_byteAt, loadProgram_byteAt (wf_loadFont hwf) h, loadFont_byteAt hwf]
  rfl

/-- Settles O54: memory by `boot_byteAt`, and the registers as PowerOn and Init leave them. -/
theorem bootOrderEstablishesTheStart : Obligations.BootOrderEstablishesTheStart := by
  intro program s t h hboot
  rw [boot_eq h] at hboot
  subst hboot
  refine ⟨fun k hk => ?program, fun k hk => ?font, fun a ha hprog => ?elsewhere, fun x => ?v, initCore_pc _,
    initCore_i _, congrArg Fin.val (initCore_sp _), ?dt, ?st, initCore_wait _, fun row col => ?pixel⟩
  case program => rw [boot_byteAt h, if_pos (by omega), Nat.add_sub_cancel_left]
  case font => rw [boot_byteAt h, if_neg (by omega), if_pos hk]
  case elsewhere => rw [boot_byteAt h, if_neg hprog, if_neg (by omega)]
  case v => rw [initCore_readV, loadProgram_readV, loadFont_readV]; exact reset_readV x
  case dt => rw [initCore_dt, loadProgram_dt, loadFont_dt]; rfl
  case st => rw [initCore_st, loadProgram_st, loadFont_st]; rfl
  case pixel => rw [initCore_pixel, loadProgram_pixel, loadFont_pixel]; exact reset_pixel row col

/-! ## The jump to itself -/

/-- A Step on a jump to its own address only takes in its side input. -/
theorem perform_selfJump {s : State} {w : Word} (hf : Fetches s w) (hw : w &&& 0xF000#16 = 0x1000#16)
    (hself : (nnnField w).toNat = s.pc.toNat) (rnd : Byte) : perform (.step rnd) s = (s.supplyRnd rnd, .ok) := by
  have htarget : addr16 (nnnField w) = s.pc := BitVec.eq_of_toNat_eq ((addr16_toNat _).trans hself)
  have hstep : stepWith rnd s = .next (s.supplyRnd rnd) := by
    rw [stepWith_fetches rnd hf (encoded_jp w hw), exec_jp, htarget]
    rfl
  rw [perform, hstep]

/-- Settles O55: after a Step on the jump the next one fetches the same word at the same PC. -/
theorem selfJumpChangesNothing : Obligations.SelfJumpChangesNothing := by
  intro s w rnds hf hw hself
  induction rnds generalizing s with
  | nil => exact ⟨trivial, fun p _ => by cases p <;> rfl⟩
  | cons rnd rest ih =>
    have hstep := perform_selfJump hf hw hself rnd
    obtain ⟨hsafe, hsame⟩ := ih (s.supplyRnd rnd) hf hself
    rw [List.map_cons, SafeRun, performAll, hstep]
    exact ⟨⟨fun f => nofun, hsafe⟩, (onlyChanges_setEnv s _).trans hsame⟩

end Sys2Proof.Machine
end
